-- ==== Sys2Proof/Word.lean ====
section
/-!
DEFINITION. The bit-vector types of the core (spec/00_scope.md R7, R9). Bit 0 is the least significant
bit of every value, and every value is unsigned.
-/

namespace Sys2Proof

/-- A u32: a word of the hash state, of the working variables, of the schedule or of read data. -/
abbrev Word := BitVec 32

/-- A u8: one message byte, one byte of the staging block. -/
abbrev Byte := BitVec 8

/-- A command word of the host's command port (R70). -/
abbrev Command := BitVec 16

/-- An offset into the staging block: 6 bits, 0..63 (R50). -/
abbrev Offset := BitVec 6

end Sys2Proof
end

