-- ==== Sys2Proof/Syntax.lean ====
section
/-!
DEFINITION. The commands of the host's command port: one constructor for each row of
spec/opcode_table.json (spec/30_encoding.md R72). An ILLEGAL word (R74) is no command and has no
constructor: the decoder refuses it, and the step gives it the effect of R198.
-/

namespace Sys2Proof

/-- The six commands. `idx` is the command's 4-bit index field as it stands in the word (R70);
`WellFormed` says which of its bits must be 0 (R71). -/
inductive Instr where
  /-- INIT: start a new message (R192). -/
  | init
  /-- PUSH: append the message byte `b` (R193). -/
  | push (b : Byte)
  /-- FINISH: end of stream (R194). -/
  | finish
  /-- RDDIG: read digest word `idx[2:0]` (R195). -/
  | rddig (idx : BitVec 4)
  /-- RDSTAT: read the status register (R196). -/
  | rdstat
  /-- RDLEN: read the half `idx[0]` of the bit length (R197). -/
  | rdlen (idx : BitVec 4)
  deriving DecidableEq, Repr

end Sys2Proof
end

