-- ==== Sys2Proof/WellFormed.lean ====
section
/-!
DEFINITION. Which instruction terms are commands of the core: the field bits that
spec/30_encoding.md R71 requires to be 0 are 0.
-/

namespace Sys2Proof

/-- The check of R71: RDDIG needs idx[11] = 0, RDLEN needs idx[11:9] = 0. The other commands' fixed
fields are no part of their terms. -/
def Instr.wellFormed : Instr → Bool
  | .init => true
  | .push _ => true
  | .finish => true
  | .rddig idx => idx.getLsbD 3 == false
  | .rdstat => true
  | .rdlen idx => idx.extractLsb' 1 3 == 0#3

/-- The instruction is a command of the core. -/
abbrev Instr.WellFormed (i : Instr) : Prop := i.wellFormed = true

end Sys2Proof
end

