-- ==== Sys2Proof/Decode.lean ====
section
/-!
DEFINITION. Decoding a command word (spec/30_encoding.md R75) and encoding a command (R72). Decoding
is total, depends on the word alone and refuses an ILLEGAL word (R74) by name.
-/

namespace Sys2Proof

/-- Why a word is ILLEGAL (R74). The core tells the reasons apart nowhere: each raises ILLEGAL_CMD. -/
inductive DecodeError where
  /-- op is 0x0 or 0x7 to 0xF. -/
  | illegalOpcode
  /-- A bit of idx that the row requires to be 0 is 1. -/
  | reservedIdx
  /-- data is not 0 in a command that takes no byte. -/
  | reservedData
  deriving DecidableEq, Repr

/-- What a word decodes to. -/
inductive Decoded where
  | command (i : Instr)
  | illegal (why : DecodeError)
  deriving DecidableEq, Repr

/-- op = w[15:12] (R70). -/
def opField (w : Command) : BitVec 4 := w.extractLsb' 12 4

/-- idx = w[11:8] (R70). -/
def idxField (w : Command) : BitVec 4 := w.extractLsb' 8 4

/-- data = w[7:0] (R70). -/
def dataField (w : Command) : Byte := w.extractLsb' 0 8

/-- The command `i`, if the fields R72 requires to be 0 are 0. -/
def checked (idxOk dataOk : Bool) (i : Instr) : Decoded :=
  if idxOk then (if dataOk then .command i else .illegal .reservedData) else .illegal .reservedIdx

/-- `decode` of R75. -/
def decode (w : Command) : Decoded :=
  let idx := idxField w
  let data := dataField w
  let noIdx := idx == 0#4
  let noData := data == 0#8
  if opField w = 0x1#4 then checked noIdx noData .init
  else if opField w = 0x2#4 then checked noIdx true (.push data)
  else if opField w = 0x3#4 then checked noIdx noData .finish
  else if opField w = 0x4#4 then checked (idx.getLsbD 3 == false) noData (.rddig idx)
  else if opField w = 0x5#4 then checked noIdx noData .rdstat
  else if opField w = 0x6#4 then checked (idx.extractLsb' 1 3 == 0#3) noData (.rdlen idx)
  else .illegal .illegalOpcode

/-- The word whose fields are `op`, `idx` and `data`, from bit 15 down (R70). -/
def commandWord (op idx : BitVec 4) (data : Byte) : Command := op ++ idx ++ data

/-- The word of a command, from the rows of R72. -/
def encode : Instr → Command
  | .init => commandWord 0x1#4 0#4 0#8
  | .push b => commandWord 0x2#4 0#4 b
  | .finish => commandWord 0x3#4 0#4 0#8
  | .rddig idx => commandWord 0x4#4 idx 0#8
  | .rdstat => commandWord 0x5#4 0#4 0#8
  | .rdlen idx => commandWord 0x6#4 idx 0#8

/-- The 16-bit word whose bits are the low `nbits` bits of `w`, every bit above them 0. -/
def tableWord (nbits w : Nat) : Command := BitVec.ofNat 16 (w % 2 ^ nbits)

/-- The instruction the decoder reads from the table's bits `w`, or none where it refuses them. -/
def decodeTableWord (nbits w : Nat) : Option Instr :=
  match decode (tableWord nbits w) with
  | .command i => some i
  | .illegal _ => none

end Sys2Proof
end

