-- ==== Sys2Proof/Machine/Bytes.lean ====
section
/-!
DEFINITION. Byte order (spec/20_memory.md R51 to R53): word assembly, the length field and the digest
are big-endian, and nothing switches that (R54).
-/

namespace Sys2Proof.Machine

/-- The u32 of four bytes, the first one most significant (R51). -/
def wordOfBytes (b0 b1 b2 b3 : Byte) : Word := b0 ++ b1 ++ b2 ++ b3

/-- The sixteen words of a block whose byte at offset j is `get j`: `word(M, j)` of R51. -/
def blockWords (get : Offset → Byte) : Vector Word 16 :=
  Vector.ofFn fun j =>
    wordOfBytes (get (BitVec.ofNat 6 (4 * j.val))) (get (BitVec.ofNat 6 (4 * j.val + 1)))
      (get (BitVec.ofNat 6 (4 * j.val + 2))) (get (BitVec.ofNat 6 (4 * j.val + 3)))

/-- `be64(v)`: the eight bytes of v, most significant first (R52). -/
def be64 (v : BitVec 64) : List Byte :=
  [v.extractLsb' 56 8, v.extractLsb' 48 8, v.extractLsb' 40 8, v.extractLsb' 32 8,
   v.extractLsb' 24 8, v.extractLsb' 16 8, v.extractLsb' 8 8, v.extractLsb' 0 8]

/-- The four bytes of a word, most significant first (R53). -/
def be32 (w : Word) : List Byte :=
  [w.extractLsb' 24 8, w.extractLsb' 16 8, w.extractLsb' 8 8, w.extractLsb' 0 8]

/-- `serialize(H)`: the 32 digest bytes, words in index order (R53). -/
def serialize (h : Vector Word 8) : List Byte := h.toList.flatMap be32

end Sys2Proof.Machine
end

