-- ==== Sys2Proof/Config.lean ====
section
/-!
DEFINITION. What the spec leaves free for every implementation. It leaves no parameter open
(spec/00_scope.md R8), so this file holds only free values: which of the two agents moves when both
could (spec/20_memory.md R61, spec/93_implementation_defined.md S6), and the unspecified words of V and
W between reset and the first block load (spec/70_reset_and_hazards.md R230, R232).
-/

namespace Sys2Proof

/-- The two agents of spec/00_scope.md R13. -/
inductive Agent where
  | host
  | core
  deriving DecidableEq, Repr, Inhabited

/-- The free schedule of R61: the n-th free choice of the agent that moves next. It has no body, so a
proof about a run holds for every number of core steps between two host commands.
DESIGN CHOICE (log entry 2): a free value, safe. -/
opaque Config.nextTurn : Nat → Agent

/-- The unspecified words of V that a core step would read before any block load, at the clock it is
taken (R22, R230). It has no body. DESIGN CHOICE (log entry 1): a free value, safe. -/
opaque Config.unspecifiedV : Nat → Vector Word 8

/-- The unspecified words of W that a core step would read before any block load (R23, R230). It has no
body. DESIGN CHOICE (log entry 1): a free value, safe. -/
opaque Config.unspecifiedW : Nat → Vector Word 64

end Sys2Proof
end

