-- ==== Sys2Proof/Machine/State.lean ====
section
/-!
DEFINITION. The state of the machine: every register of spec/10_state.md R20, the command port, the
reset input and the response channel, the fault record of spec/60_exceptions.md R213, and the two
fields that carry the free values of spec/20_memory.md R61 and spec/70_reset_and_hazards.md R230.
-/

namespace Sys2Proof.Machine

/-- The sequencing state (R27). -/
inductive Phase where
  | accept
  | busy
  | done
  deriving DecidableEq, Repr

/-- Which block a BUSY core is compressing (R28). -/
inductive Kind where
  | data
  | pad1
  | final
  deriving DecidableEq, Repr

/-- The four causes of a protocol error (spec/60_exceptions.md R211). -/
inductive ProtocolError where
  | illegalCmd
  | pushInDone
  | finishInDone
  | rddigNotDone
  deriving DecidableEq, Repr

/-- What one read command returned to the host. -/
inductive Response where
  /-- The 32-bit read data. -/
  | data (v : Word)
  /-- The unspecified read data of a refused RDDIG, modelled as no value (R195, R213). The hardware
  returns some word here, and the model says nothing of it (log entry 5). -/
  | noValue
  deriving DecidableEq, Repr

/-- The staging block M (R24, R50): the offsets that do not read 0x00, each with its byte, by strictly
rising offset. `Memory.wf` (Machine/Ops.lean) is that canonical form. -/
abbrev Memory := List Host.Cell

/-- The state. Fields `H` to `lenOvf` are the core's registers under the spec's names. -/
structure State where
  /-- Hash state, H[0..7] (R21). -/
  H : Vector Word 8
  /-- Working variables a..h (R22). -/
  V : Vector Word 8
  /-- Schedule, W[0..63] (R23). -/
  W : Vector Word 64
  /-- Whether V and W hold a value: they hold none from reset until the first block load
  (spec/70_reset_and_hazards.md R232). -/
  vwLoaded : Bool
  /-- Staging block M (R24). -/
  M : Memory
  /-- Cursor (R25). -/
  cur : Offset
  /-- Bit length (R26). -/
  L : BitVec 64
  /-- Sequencing state (R27). -/
  phase : Phase
  /-- Kind of the block in BUSY (R28). -/
  kind : Kind
  /-- Round index, 0..64 (R29). -/
  t : Fin 65
  /-- ERR (R30). -/
  err : Bool
  /-- ECODE (R31). -/
  ecode : BitVec 4
  /-- LEN_OVF (R32). -/
  lenOvf : Bool
  /-- The host's command sequence, not yet accepted, head first (spec/45_host_commands.md R190). -/
  port : List Command
  /-- The word at the head of the port is the host's pending command: it has been issued and held, and
  is not yet accepted (R191, R230). -/
  pending : Bool
  /-- The reset input at each coming step, the next one first (R231). An empty list is a reset input
  that stays low. -/
  resetIn : List Bool
  /-- What the read commands have returned to the host, oldest first (R190). -/
  responses : List Response
  /-- The model's fault record: every protocol error so far, oldest first (R213). -/
  faults : List ProtocolError
  /-- The model's fault record for V and W: a core step has read them while they held no value. R232:
  "Reading one before a LOAD would be a fault. No rule does so". -/
  noValueRead : Bool
  /-- The model's own: the agent that moves when both could (R61). -/
  turn : Agent
  /-- The model's own: the number of free values taken so far, the index of the next one. -/
  clock : Nat
  deriving DecidableEq, Repr

/-- Why a step stops: there is no reason, so there is no constructor. A protocol error is a next state
(R212), and both kinds of fault the spec has a model record, `faults` (R213) and `noValueRead` (R232),
are records in State. -/
inductive Fault where
  deriving DecidableEq, Repr

/-- Why an instruction has no meaning. -/
inductive Refusal where
  /-- The instruction is not modelled yet. Raised by no arm of this model. Safe. -/
  | notModelled (mnemonic : String)
  deriving DecidableEq, Repr

/-- The machine right after reset (R20, R230). V and W are unspecified there: the words are a DESIGN
CHOICE of the model and `vwLoaded` marks them as no value (R232, log entry 1), so that no step reads
them. The host has issued no command and the reset input is low (log entries 3 and 4). `turn` and `clock` are the model's own
(DESIGN CHOICE, log entry 2). -/
def State.reset : State where
  H := H0
  V := Vector.replicate 8 0#32
  W := Vector.replicate 64 0#32
  vwLoaded := false
  M := []
  cur := 0#6
  L := 0#64
  phase := .accept
  kind := .data
  t := 0
  err := false
  ecode := 0#4
  lenOvf := false
  port := []
  pending := false
  resetIn := []
  responses := []
  faults := []
  noValueRead := false
  turn := .host
  clock := 0

end Sys2Proof.Machine
end

