-- ==== Sys2Proof/Machine/Ops.lean ====
section
/-!
DEFINITION. The named operations over the staging block and the registers: reading and writing bytes of
M, raising a protocol error (the one shared exception operation), returning read data, and the effect
of INIT.
-/

namespace Sys2Proof.Machine

/-! ### The staging block (R24, R50) -/

/-- What an offset that the list does not name reads as: M is all 0x00 after reset (R24). -/
def Memory.unlisted : Byte := 0#8

/-- The byte at an offset. -/
def Memory.read (m : Memory) (o : Offset) : Byte :=
  match m with
  | [] => Memory.unlisted
  | (a, b) :: rest => if a = o.toNat then b else Memory.read rest o

/-- Write `b` at the key `a`, keeping the canonical form: a byte equal to the unlisted one leaves no
cell. -/
def Memory.put (a : Nat) (b : Byte) : Memory → Memory
  | [] => if b = Memory.unlisted then [] else [(a, b)]
  | (a', b') :: rest =>
    if a < a' then
      if b = Memory.unlisted then (a', b') :: rest else (a, b) :: (a', b') :: rest
    else if a = a' then
      if b = Memory.unlisted then rest else (a, b) :: rest
    else (a', b') :: Memory.put a b rest

/-- `M[o] <- b`. -/
def Memory.write (m : Memory) (o : Offset) (b : Byte) : Memory := Memory.put o.toNat b m

/-- `MemWrite(j, n, v)` (R11): the bytes of `bs` at the offsets from `j` on, in order. R11 requires
j + n ≤ 64; past it the offset wraps, which no operation of the core does (log entry 8). -/
def Memory.writeBytes (m : Memory) (j : Nat) : List Byte → Memory
  | [] => m
  | b :: bs => Memory.writeBytes (Memory.write m (BitVec.ofNat 6 j) b) (j + 1) bs

/-- M with every byte 0x00: `for j in 0..63: M[j] <- 0x00`. -/
def Memory.cleared : Memory := []

/-- The cells from offset `lo` on: strictly rising offsets below 64, none reading as an unlisted one. -/
def Memory.wfFrom (lo : Nat) : Memory → Bool
  | [] => true
  | (a, b) :: rest => decide (lo ≤ a) && decide (a < 64) && (b != Memory.unlisted) && Memory.wfFrom (a + 1) rest

/-- The canonical form of M. -/
def Memory.wf (m : Memory) : Bool := Memory.wfFrom 0 m

/-- The staged block as 16 words (R51). -/
def State.stagedWords (s : State) : Vector Word 16 := blockWords s.M.read

/-- M with the pad byte at offset `c` and zeros after it (R122, R194). -/
def Memory.padded (m : Memory) (c : Offset) : Memory :=
  (m.write c 0x80#8).writeBytes (c.toNat + 1) (List.replicate (63 - c.toNat) 0#8)

/-- M with the length field in bytes 56 to 63: `MemWrite(56, 8, L)` (R52). -/
def Memory.withLengthField (m : Memory) (len : BitVec 64) : Memory := m.writeBytes 56 (be64 len)

/-- Write of the staging block. -/
def State.setM (s : State) (m : Memory) : State := { s with M := m }

/-! ### Protocol errors (spec/60_exceptions.md) -/

/-- The cause codes of R211. -/
def ProtocolError.code : ProtocolError → BitVec 4
  | .illegalCmd => 1#4
  | .pushInDone => 2#4
  | .finishInDone => 3#4
  | .rddigNotDone => 4#4

/-- `raise ProtocolError(code)`: ECODE takes the code when ERR was 0, ERR is set, nothing else changes
and the core continues (R212). The model records the fault as well, for good (R213). There is no
handler, no saved state and no return (R217, R218). -/
def State.raise (s : State) (e : ProtocolError) : State :=
  { s with
    ecode := if s.err then s.ecode else e.code
    err := true
    faults := s.faults ++ [e] }

/-! ### The response channel -/

/-- `rdata <- v` (R11): the host receives one more response. -/
def State.respond (s : State) (r : Response) : State := { s with responses := s.responses ++ [r] }

/-! ### INIT -/

/-- The effect of INIT (R192), in every phase. V and W keep whatever they held. -/
def State.initialise (s : State) : State :=
  { s with
    H := H0
    M := Memory.cleared
    cur := 0#6
    L := 0#64
    t := 0
    kind := .data
    err := false
    ecode := 0#4
    lenOvf := false
    phase := .accept }

end Sys2Proof.Machine
end

