-- ==== Sys2Proof/Machine/Agents.lean ====
section
/-!
DEFINITION. Which agent moves next: the hold (spec/45_host_commands.md R191), the order of the checks
(spec/60_exceptions.md R216), the free interleaving of host and core (spec/20_memory.md R61), what each
step does to the inputs, and reset over everything (spec/70_reset_and_hazards.md R231).
-/

namespace Sys2Proof.Machine

/-- What the next step of the machine is. -/
inductive Move where
  /-- The reset input is asserted. -/
  | reset
  /-- The core's step. -/
  | core
  /-- The host's step: the command word `w` is accepted. -/
  | command (w : Command)
  /-- No agent has a step. -/
  | idle
  deriving DecidableEq, Repr

/-- The commands that are held in BUSY: PUSH, FINISH, RDDIG and RDLEN (R191). -/
def waitsForCore : Instr → Bool
  | .init => false
  | .push _ => true
  | .finish => true
  | .rddig _ => true
  | .rdstat => false
  | .rdlen _ => true

/-- The word `w` is a command that is held in BUSY. An ILLEGAL word never is (R191, R216). -/
def wordWaits (w : Command) : Bool :=
  match decode w with
  | .command i => waitsForCore i
  | .illegal _ => false

/-- The command at the head of the port is held: the core is BUSY and the command waits for it. -/
def State.headHeld (s : State) : Bool :=
  decide (s.phase = .busy) &&
    match s.port with
    | [] => false
    | w :: _ => wordWaits w

/-- The reset input is asserted now. -/
def State.resetAsserted (s : State) : Bool := s.resetIn.headD false

/-- The next move. Reset goes first (R231). Outside BUSY only the host can move (R173). In BUSY the
core moves when the host has no step, because it has no command or the command is held (R190), and
`turn` says which of the two moves when both could (R61). -/
def State.nextMove (s : State) : Move :=
  if s.resetAsserted then .reset
  else
    match s.port with
    | [] => if s.phase = .busy then .core else .idle
    | w :: _ =>
      if s.phase = .busy then
        if wordWaits w then .core else if s.turn = .core then .core else .command w
      else .command w

/-! ### What a step does to the inputs -/

/-- A step of an agent, or a reset step: the reset input's next value comes up, the next free choice of
the schedule is drawn (R61, log entry 2), and a head command that is held now is the host's pending
command from here on (R191, log entry 6). No register of the core changes. -/
def State.tick (s : State) : State :=
  { s with
    resetIn := s.resetIn.tail
    pending := s.pending || s.headHeld
    turn := Config.nextTurn s.clock
    clock := s.clock + 1 }

/-- A host step accepts the command word at the head of the sequence, and the word leaves it (R190). -/
def State.accept (s : State) : State := { s.tick with port := s.port.tail, pending := false }

/-- No agent has a step: the reset input's next value comes up, and nothing else changes (R225, log
entry 7). -/
def State.idle (s : State) : State := { s with resetIn := s.resetIn.tail }

/-! ### Reset -/

/-- The host's commands after a reset: the pending command, if any, is discarded (R230). It is the
command at the head of the port that is held now, or has been held and not yet accepted (log entry
6). -/
def State.portAfterReset (s : State) : List Command :=
  if s.pending || s.headHeld then s.port.tail else s.port

/-- Reset (R230): every register takes its reset value. What the host has received stays received, and
no step clears the fault records (R213, log entry 10). -/
def State.takeReset (s : State) : State :=
  { State.reset with
    port := s.portAfterReset
    resetIn := s.tick.resetIn
    responses := s.responses
    faults := s.faults
    noValueRead := s.noValueRead
    turn := s.tick.turn
    clock := s.tick.clock }

end Sys2Proof.Machine
end

