-- ==== Sys2Proof/Machine/Flags.lean ====
section
/-!
DEFINITION. The flags and the status register: the LEN_OVF condition (spec/10_state.md R32) and the
layout of STATUS (R35). ERR and ECODE are written by `State.raise` (Machine/Ops.lean).
-/

namespace Sys2Proof.Machine

/-- The accepted PUSH that wraps L: L + 8 ≥ 2^64 (R32). -/
def lengthOverflows (len : BitVec 64) : Bool := decide (2 ^ 64 ≤ len.toNat + 8)

/-- The bit length after an accepted PUSH: (L + 8) mod 2^64 (R26). -/
def lengthNext (len : BitVec 64) : BitVec 64 := BitVec.ofNat 64 (len.toNat + 8)

/-- READY, bit 0. -/
def State.ready (s : State) : Bool := decide (s.phase = .accept)

/-- BUSY, bit 1. -/
def State.busy (s : State) : Bool := decide (s.phase = .busy)

/-- DONE, bit 2. -/
def State.done (s : State) : Bool := decide (s.phase = .done)

/-- STATUS (R35): `zext_32({ECODE, 2'b00, cur, 3'b000, LEN_OVF, ERR, DONE, BUSY, READY})`. Its fields
are views of the registers and its reserved bits read 0. -/
def State.status (s : State) : Word :=
  (s.ecode ++ 0#2 ++ s.cur ++ 0#3 ++ BitVec.ofBool s.lenOvf ++ BitVec.ofBool s.err ++
    BitVec.ofBool s.done ++ BitVec.ofBool s.busy ++ BitVec.ofBool s.ready).setWidth 32

end Sys2Proof.Machine
end

