-- ==== Sys2Proof/Machine/Operands.lean ====
section
/-!
DEFINITION. The operand forms of the commands (spec/30_encoding.md R71). No operand is sign-extended,
scaled or shifted. PUSH takes its byte unchanged.
-/

namespace Sys2Proof.Machine

/-- RDDIG's word index i = idx[10:8] of the word, bits 2..0 of the index field. -/
def rddigIndex (idx : BitVec 4) : Fin 8 := ⟨(idx.extractLsb' 0 3).toNat, (idx.extractLsb' 0 3).isLt⟩

/-- RDDIG with idx[11] = 1: the word is ILLEGAL (R74). -/
def rddigIllegal (idx : BitVec 4) : Bool := idx.getLsbD 3

/-- RDLEN's half selector j = idx[8] of the word: false selects L[63:32], true L[31:0]. -/
def rdlenLow (idx : BitVec 4) : Bool := idx.getLsbD 0

/-- RDLEN with a bit of idx[11:9] set: the word is ILLEGAL (R74). -/
def rdlenIllegal (idx : BitVec 4) : Bool := idx.extractLsb' 1 3 != 0#3

/-- The half of L that RDLEN returns (R197). -/
def lengthHalf (low : Bool) (len : BitVec 64) : Word :=
  if low then len.extractLsb' 0 32 else len.extractLsb' 32 32

end Sys2Proof.Machine
end

