-- ==== Sys2Proof/Machine/ReadCommands.lean ====
section
/-!
DEFINITION. The read commands RDDIG, RDSTAT and RDLEN (spec/45_host_commands.md R195 to R197) and the
effect of an ILLEGAL word (R198).
-/

namespace Sys2Proof.Machine

/-- An ILLEGAL word (R198): the protocol error ILLEGAL_CMD in every phase, never held, and no read
data. -/
def execIllegal (s : State) : Host.Outcome State Fault Refusal := .next (s.raise .illegalCmd)

/-- RDDIG (R195). Held in BUSY, as PUSH is. In ACCEPT it is refused and its read data is no value
(R213). The checks are made in the order of R216, so a term whose reserved bit is set, the word of
which is ILLEGAL, raises ILLEGAL_CMD (log entry 9). -/
def execRddig (idx : BitVec 4) (s : State) : Host.Outcome State Fault Refusal :=
  if rddigIllegal idx then execIllegal s
  else
    match s.phase with
    | .busy => .next s
    | .done => .next (s.respond (.data s.H[rddigIndex idx]))
    | .accept => .next ((s.raise .rddigNotDone).respond .noValue)

/-- RDSTAT (R196): the same in every phase, never held. -/
def execRdstat (s : State) : Host.Outcome State Fault Refusal := .next (s.respond (.data s.status))

/-- RDLEN (R197). Held in BUSY, as PUSH is. A term whose reserved bits are set raises ILLEGAL_CMD (log
entry 9). -/
def execRdlen (idx : BitVec 4) (s : State) : Host.Outcome State Fault Refusal :=
  if rdlenIllegal idx then execIllegal s
  else
    match s.phase with
    | .busy => .next s
    | .accept => .next (s.respond (.data (lengthHalf (rdlenLow idx) s.L)))
    | .done => .next (s.respond (.data (lengthHalf (rdlenLow idx) s.L)))

end Sys2Proof.Machine
end

