-- ==== Sys2Proof/Machine/Functions.lean ====
section
/-!
DEFINITION. The pure word functions of spec/40_functions.md. Each reads its operands alone (R109).
-/

namespace Sys2Proof.Machine

/-- `add32(x1, …, xn)`: the sum on unbounded integers, reduced once modulo 2^32 (R100). -/
def add32 (xs : List Word) : Word := BitVec.ofNat 32 (xs.map BitVec.toNat).sum

/-- `rotr(x, n)`, right rotation by n mod 32 (R101; n mod 32 is decision D27). -/
def rotr (x : Word) (n : Nat) : Word := (x >>> (n % 32)) ||| (x <<< (32 - n % 32))

/-- `shr(x, n)`, logical right shift (R102). -/
def shr (x : Word) (n : Nat) : Word := x >>> n

/-- σ0 (R103). -/
def ssig0 (x : Word) : Word := rotr x 7 ^^^ rotr x 18 ^^^ shr x 3

/-- σ1 (R104). -/
def ssig1 (x : Word) : Word := rotr x 17 ^^^ rotr x 19 ^^^ shr x 10

/-- Σ0 (R105). -/
def bsig0 (x : Word) : Word := rotr x 2 ^^^ rotr x 13 ^^^ rotr x 22

/-- Σ1 (R106). -/
def bsig1 (x : Word) : Word := rotr x 6 ^^^ rotr x 11 ^^^ rotr x 25

/-- Choose (R107). -/
def ch (x y z : Word) : Word := (x &&& y) ^^^ (~~~x &&& z)

/-- Majority (R108). -/
def maj (x y z : Word) : Word := (x &&& y) ^^^ (x &&& z) ^^^ (y &&& z)

end Sys2Proof.Machine
end

