-- ==== Sys2Proof/Machine/Compressor.lean ====
section
/-!
DEFINITION. The Compressor (spec/43_compressor.md): the round function, 64 rounds, and the final
addition, as pure functions.
-/

namespace Sys2Proof.Machine

/-- `round(V, k, w)`: all eight results from the old values, together (R153). -/
def compressRound (V : Vector Word 8) (k w : Word) : Vector Word 8 :=
  let a := V[0]
  let b := V[1]
  let c := V[2]
  let d := V[3]
  let e := V[4]
  let f := V[5]
  let g := V[6]
  let h := V[7]
  let t1 := add32 [h, bsig1 e, ch e f g, k, w]
  let t2 := add32 [bsig0 a, maj a b c]
  #v[add32 [t1, t2], a, b, c, add32 [d, t1], e, f, g]

/-- V after rounds 0 to n - 1; round i reads K[i] and W[i] (R151, R152). -/
def roundsTo (Hin : Vector Word 8) (W : Vector Word 64) : (n : Nat) → n ≤ 64 → Vector Word 8
  | 0, _ => Hin
  | n + 1, h => compressRound (roundsTo Hin W n (Nat.le_of_succ_le h)) K[n] W[n]

/-- The final addition, word by word with no carry between words (R154). -/
def addState (Hin V : Vector Word 8) : Vector Word 8 :=
  Vector.ofFn fun j => add32 [Hin[j], V[j]]

/-- `compress(Hin, W)` (R150): exactly 64 rounds (R155), then the final addition. -/
def compress (Hin : Vector Word 8) (W : Vector Word 64) : Vector Word 8 :=
  addState Hin (roundsTo Hin W 64 (Nat.le_refl 64))

end Sys2Proof.Machine
end

