-- ==== Sys2Proof/Machine/Scheduler.lean ====
section
/-!
DEFINITION. The Message Scheduler (spec/42_scheduler.md): a block's 16 words expanded into the 64 words
of the schedule.
-/

namespace Sys2Proof.Machine

/-- Words 0 to 15 + n of the schedule, in increasing index: the block's words unchanged (R141), then
the recurrence of R142. -/
def expandTo (B : Vector Word 16) : (n : Nat) → Vector Word (16 + n)
  | 0 => B
  | n + 1 =>
    let W := expandTo B n
    W.push (add32 [ssig1 W[14 + n], W[9 + n], ssig0 W[1 + n], W[n]])

/-- `expand(B)` (R140). -/
def expand (B : Vector Word 16) : Vector Word 64 := expandTo B 48

end Sys2Proof.Machine
end

