-- ==== Sys2Proof/Machine/Driver.lean ====
section
/-!
DEFINITION. The Digest Driver's steps (spec/44_driver.md): the block load, the round step, the
final-add step, and the core agent's step made of the last two.
-/

namespace Sys2Proof.Machine

/-- `LOAD(k)` (R172): the schedule from the staged block, V from H, and M cleared. It is the last part
of the step that completes a block. From here on V and W hold a value (R232). -/
def State.load (s : State) (k : Kind) : State :=
  { s with
    W := expand s.stagedWords
    V := s.H
    vwLoaded := true
    t := 0
    kind := k
    phase := .busy
    M := Memory.cleared
    cur := 0#6 }

/-- Round step i (R174): one round of V with K[i] and W[i], and t advances. -/
def State.roundStep (s : State) (i : Fin 64) : State :=
  { s with
    V := compressRound s.V K[i] s.W[i]
    t := i.succ }

/-- H with V added in (R154, R175). -/
def State.addToHash (s : State) : State := { s with H := addState s.H s.V }

/-- Write of the phase. -/
def State.setPhase (s : State) (p : Phase) : State := { s with phase := p }

/-- Final-add step (R175): V is added into H, and the kind of the block decides what follows. -/
def State.finalAdd (s : State) : State :=
  match s.kind with
  | .data => s.addToHash.setPhase .accept
  | .pad1 => (s.addToHash.setM (s.M.withLengthField s.L)).load .final
  | .final => s.addToHash.setPhase .done

/-- V and W made ready to be read. Where they hold no value their words are free values from here on,
and the read is recorded as the fault that R232 says it would be (log entry 1). Where they hold a value,
as in every BUSY state that a run from reset can reach (R22, R23), nothing changes. -/
def State.settled (s : State) : State :=
  { s with
    V := if s.vwLoaded then s.V else Config.unspecifiedV s.clock
    W := if s.vwLoaded then s.W else Config.unspecifiedW s.clock
    vwLoaded := true
    noValueRead := s.noValueRead || !s.vwLoaded }

/-- The core agent's step (R173): in BUSY the round step while t < 64 and the final-add step after it,
over V and W as they stand. It is enabled only in BUSY; in ACCEPT and DONE the core takes no step and
nothing changes (log entry 7). -/
def coreStep (s : State) : Host.Outcome State Fault Refusal :=
  if s.phase = .busy then
    if h : s.t.val < 64 then .next (s.settled.roundStep ⟨s.t.val, h⟩) else .next s.settled.finalAdd
  else .next s

/-- `n` core steps in a row, with no host step between them: what the step counts of R177 count. -/
def coreSteps : Nat → State → Host.Outcome State Fault Refusal
  | 0, s => .next s
  | n + 1, s =>
    match coreStep s with
    | .next s' => coreSteps n s'
    | .fault f => .fault f
    | .refused r => .refused r

end Sys2Proof.Machine
end

