-- ==== Sys2Proof/Machine/WriteCommands.lean ====
section
/-!
DEFINITION. The write commands INIT, PUSH and FINISH (spec/45_host_commands.md R192 to R194).
-/

namespace Sys2Proof.Machine

/-- INIT (R192): the same in every phase, never held. In BUSY it aborts the block. -/
def execInit (s : State) : Host.Outcome State Fault Refusal := .next s.initialise

/-- The message byte `b` at the cursor, counted in L and LEN_OVF (R193, first three lines of ACCEPT). -/
def State.appendByte (s : State) (b : Byte) : State :=
  { s with
    M := s.M.write s.cur b
    lenOvf := s.lenOvf || lengthOverflows s.L
    L := lengthNext s.L }

/-- The cursor moves on to the next byte (R25). -/
def State.advanceCursor (s : State) : State := { s with cur := s.cur + 1#6 }

/-- PUSH (R193). Held in BUSY: a held command has no effect and no error (R191), and `State.nextMove`
keeps it at the head of the port. -/
def execPush (b : Byte) (s : State) : Host.Outcome State Fault Refusal :=
  match s.phase with
  | .busy => .next s
  | .done => .next (s.raise .pushInDone)
  | .accept =>
    if s.cur = 63#6 then .next ((s.appendByte b).load .data)
    else .next (s.appendByte b).advanceCursor

/-- FINISH (R194). Held in BUSY, as PUSH is. -/
def execFinish (s : State) : Host.Outcome State Fault Refusal :=
  match s.phase with
  | .busy => .next s
  | .done => .next (s.raise .finishInDone)
  | .accept =>
    if s.cur.toNat ≤ 55 then
      .next ((s.setM ((s.M.padded s.cur).withLengthField s.L)).load .final)
    else .next ((s.setM (s.M.padded s.cur)).load .pad1)

end Sys2Proof.Machine
end

