-- ==== Sys2Proof/Machine/Dispatch.lean ====
section
/-!
DEFINITION. One arm for each command: the effect of a command the host issues, in the phase the core is
in (spec/45_host_commands.md R199).
-/

namespace Sys2Proof.Machine

def exec (i : Instr) (s : State) : Host.Outcome State Fault Refusal :=
  match i with
  | .init => Sys2Proof.Machine.execInit s
  | .push b => Sys2Proof.Machine.execPush b s
  | .finish => Sys2Proof.Machine.execFinish s
  | .rddig idx => Sys2Proof.Machine.execRddig idx s
  | .rdstat => Sys2Proof.Machine.execRdstat s
  | .rdlen idx => Sys2Proof.Machine.execRdlen idx s

end Sys2Proof.Machine
end

