-- ==== Sys2Proof/Machine/Step.lean ====
section
/-!
DEFINITION. One step of the machine: a reset, a core step, or a host step (spec/45_host_commands.md
R190), as `State.nextMove` says.
-/

namespace Sys2Proof.Machine

/-- One step. A host step decodes the word and performs the command's effect, and the word leaves the
port in that one step. Where no agent has a step the core keeps its state (spec/60_exceptions.md
R225, log entry 7). -/
def step (s : State) : Host.Outcome State Fault Refusal :=
  match s.nextMove with
  | .reset => .next s.takeReset
  | .core => coreStep s.tick
  | .idle => .next s.idle
  | .command w =>
    match decode w with
    | .command i => exec i s.accept
    | .illegal _ => execIllegal s.accept

/-- `s` with the command word whose bits are the low `nbits` bits of `w` issued next by the host: at
the head of the port, where no command is pending, with the reset input low for this step and the host
to move. The next step runs it, except that in BUSY a held command waits as R191 says (log entry 3). -/
def State.withFetchWord (s : State) (nbits w : Nat) : State :=
  { s with
    port := tableWord nbits w :: s.port
    pending := false
    resetIn := false :: s.resetIn
    turn := .host }

end Sys2Proof.Machine
end

