-- ==== Sys2Proof/Machine/Assembler.lean ====
section
/-!
DEFINITION. The spec's assembler lines and pseudo-instructions (spec/30_encoding.md R77, R78): the
command words of each. The core sees the words alone.
-/

namespace Sys2Proof.Machine

/-- One line of a host program. Operands are the numbers written, in range or not. The concrete text
(letter case, comments, the spellings of a number) is left out (log entry 11). -/
inductive AsmLine where
  | init
  | push (byte : Nat)
  | finish
  | rddig (i : Nat)
  | rdstat
  | rdlen (j : Nat)
  /-- `.word 0xNNNN`: any 16-bit word, legal or not. -/
  | word (w : Nat)
  | pushs (text : List Char)
  | pushb (bytes : List Nat)
  | rddigAll
  | rdlenAll
  | hash (text : List Char)
  /-- `WAITIDLE`: RDSTAT once and then `again` times more. The loop is the host's and its length
  depends on the core (R78), so a program in which the host has looped `again` times has this
  expansion. -/
  | waitIdle (again : Nat)
  deriving DecidableEq, Repr

/-- An operand out of range is an assembly error, not an ILLEGAL word (R77). -/
inductive AsmError where
  | operandOutOfRange
  deriving DecidableEq, Repr

/-- The words of a line, or why there are none. -/
inductive Assembled where
  | words (ws : List Command)
  | error (why : AsmError)
  deriving DecidableEq, Repr

/-- `n` as an operand below `bound`. -/
def operandBelow (bound n : Nat) (f : Nat → List Command) : Assembled :=
  if n < bound then .words (f n) else .error .operandOutOfRange

/-- PUSH of each byte, in order. -/
def pushWords (bytes : List Nat) : List Command := bytes.map fun b => encode (.push (BitVec.ofNat 8 b))

/-- RDDIG 0 to RDDIG 7. -/
def rddigAllWords : List Command := (List.range 8).map fun i => encode (.rddig (BitVec.ofNat 4 i))

/-- RDLEN 0 and RDLEN 1. -/
def rdlenAllWords : List Command := [encode (.rdlen 0#4), encode (.rdlen 1#4)]

/-- The bytes, if each is below `bound`. -/
def bytesBelow (bound : Nat) (bytes : List Nat) (f : List Nat → List Command) : Assembled :=
  if bytes.all fun b => decide (b < bound) then .words (f bytes) else .error .operandOutOfRange

/-- The words of a line (R77, R78). A text is ASCII. -/
def assemble : AsmLine → Assembled
  | .init => .words [encode .init]
  | .push b => operandBelow 256 b fun b => pushWords [b]
  | .finish => .words [encode .finish]
  | .rddig i => operandBelow 8 i fun i => [encode (.rddig (BitVec.ofNat 4 i))]
  | .rdstat => .words [encode .rdstat]
  | .rdlen j => operandBelow 2 j fun j => [encode (.rdlen (BitVec.ofNat 4 j))]
  | .word w => operandBelow 65536 w fun w => [BitVec.ofNat 16 w]
  | .pushs text => bytesBelow 128 (text.map Char.toNat) pushWords
  | .pushb bytes => bytesBelow 256 bytes pushWords
  | .rddigAll => .words rddigAllWords
  | .rdlenAll => .words rdlenAllWords
  | .hash text =>
    bytesBelow 128 (text.map Char.toNat) fun bytes =>
      encode .init :: pushWords bytes ++ encode .finish :: rddigAllWords
  | .waitIdle again => .words (List.replicate (again + 1) (encode .rdstat))

end Sys2Proof.Machine
end

