-- ==== Sys2Proof/Machine/Contract.lean ====
section
/-!
DEFINITION. The contracts of the Padder/Parser (spec/41_padder_parser.md) and of the Digest Driver
(spec/44_driver.md R170, R171) as pure functions of the whole message. The machine computes the same
block by block through PUSH, FINISH and the core's steps; R178 says that the two agree.
-/

namespace Sys2Proof.Machine

/-- A block as its 64 bytes in offset order. -/
abbrev Block := List Byte

/-- The bit length L of a message: 8 × its bytes, modulo 2^64 (R126). -/
def bitLength (msg : List Byte) : BitVec 64 := BitVec.ofNat 64 (8 * msg.length)

/-- The data blocks: the full 64-byte blocks of the message, in order (R121). -/
def dataBlocks (msg : List Byte) : List Block :=
  (List.range (msg.length / 64)).map fun k => (msg.drop (64 * k)).take 64

/-- The message bytes after the last full block, the pad byte 0x80, and zeros up to byte 63 (R122). -/
def padBlock (msg : List Byte) : Block :=
  msg.drop (64 * (msg.length / 64)) ++ [0x80#8] ++ List.replicate (63 - msg.length % 64) 0#8

/-- The block `b` with `be64(len)` in its bytes 56 to 63. -/
def withLength (b : Block) (len : BitVec 64) : Block := b.take 56 ++ be64 len

/-- `pad(msg)` (R120): the length goes into the block of the pad byte where c ≤ 55 (R123), else into
one more block (R124). -/
def pad (msg : List Byte) : List Block :=
  if msg.length % 64 ≤ 55 then
    dataBlocks msg ++ [withLength (padBlock msg) (bitLength msg)]
  else
    dataBlocks msg ++ [padBlock msg, withLength (List.replicate 64 0#8) (bitLength msg)]

/-- The byte of a block at an offset. -/
def blockByte (b : Block) (o : Offset) : Byte := b.getD o.toNat 0#8

/-- One step of the fold: the block expanded and compressed into the hash state. -/
def foldBlock (H : Vector Word 8) (b : Block) : Vector Word 8 :=
  compress H (expand (blockWords (blockByte b)))

/-- The strict left fold of the compressor over a block sequence (R171). -/
def foldBlocks (H : Vector Word 8) (bs : List Block) : Vector Word 8 := bs.foldl foldBlock H

/-- `digest(msg)` (R170): the 32 bytes of the hash state after the last block. -/
def digest (msg : List Byte) : List Byte := serialize (foldBlocks H0 (pad msg))

end Sys2Proof.Machine
end

