-- ==== Sys2Proof/Safety.lean ====
section
/-!
DEFINITION. What claims about runs are made of: the invariant of spec/10_state.md R37, a faulted and a
final state (spec/60_exceptions.md R213, spec/44_driver.md R180), and a message inside SHA-256's domain
(spec/41_padder_parser.md R126).
-/

namespace Sys2Proof.Machine

/-- The invariant of R37, with what makes every step keep it: M is canonical, a BUSY core has loaded V
and W (R22), and a data block ends with L a whole number of blocks. Item 5 of R37 (exactly one phase)
and 0 ≤ t ≤ 64 hold by the types of `phase` and `t`. -/
structure State.Inv (s : State) : Prop where
  /-- M is in its canonical form. -/
  canonical : s.M.wf = true
  /-- R37.1: in ACCEPT every byte from the cursor on is 0x00. -/
  acceptTail : s.phase = .accept → ∀ o : Offset, s.cur.toNat ≤ o.toNat → s.M.read o = 0#8
  /-- R37.2: in ACCEPT, L mod 512 = 8 × cur. -/
  acceptLength : s.phase = .accept → s.L.toNat % 512 = 8 * s.cur.toNat
  /-- While a data block is compressed L is a whole number of blocks. -/
  dataLength : s.phase = .busy → s.kind = .data → s.L.toNat % 512 = 0
  /-- R37.3 and R37.4: in BUSY and in DONE, cur = 0. -/
  cursorZero : s.phase ≠ .accept → s.cur = 0#6
  /-- R37.3 and R37.4: in BUSY and in DONE, M is all 0x00. -/
  blockClear : s.phase ≠ .accept → ∀ o : Offset, s.M.read o = 0#8
  /-- R22, R23: in BUSY, V and W hold a value. -/
  loaded : s.phase = .busy → s.vwLoaded = true

/-- `n` steps of the machine, stopping at the first fault or refusal. -/
def steps : Nat → State → Host.Outcome State Fault Refusal
  | 0, s => .next s
  | n + 1, s =>
    match step s with
    | .next s' => steps n s'
    | .fault f => .fault f
    | .refused r => .refused r

/-- A fault has been recorded in this run: a protocol error (R213), or a read of V and W while they held
no value (R232). -/
def State.faulted (s : State) : Bool := !s.faults.isEmpty || s.noValueRead

/-- A run is over when every command has been accepted and the core is not BUSY (R180). A faulted run
is never final (R213). -/
def State.final (s : State) : Bool :=
  s.port.isEmpty && !(decide (s.phase = .busy)) && !s.faulted

/-- L has not wrapped: the premise of a claim that the digest is standards-compliant (R32, R126). -/
def State.inDomain (s : State) : Bool := !s.lenOvf

/-- The core is about to take the first byte of a message, exactly as after INIT or reset (R178). -/
structure State.Fresh (s : State) : Prop where
  phase : s.phase = .accept
  hash : s.H = H0
  canonical : s.M.wf = true
  clear : ∀ o : Offset, s.M.read o = 0#8
  cursor : s.cur = 0#6
  length : s.L = 0#64
  err : s.err = false

/-- The command words of a message: PUSH of each byte in order, then FINISH (R178). -/
def messageWords (msg : List Byte) : List Command :=
  (msg.map fun b => encode (.push b)) ++ [encode .finish]

end Sys2Proof.Machine
end

