-- ==== Sys2Proof/Certificates/Slice0/Obligations.lean ====
section
/-!
DEFINITION. The statements for the provers, from the numbered rules of spec/. OBLIGATIONS.json says of
each which rules it formalises.
-/

open Sys2Proof Sys2Proof.Machine

/-! ### Encoding -/

/-- R72, R75: decoding the word of a command gives the command back, with every operand at every value
the encoding admits. -/
def Obligations.DecodeOfEncode : Prop :=
  ∀ i : Instr, i.WellFormed → decode (encode i) = .command i

/-- R74, R75: a word that decodes to a command is the word of that command and of no other, and the
command is well formed. -/
def Obligations.EncodeOfDecode : Prop :=
  ∀ (w : Command) (i : Instr), decode w = .command i → encode i = w ∧ i.WellFormed

/-- R72: a word is the command of a row exactly when (w ∧ mask) = match, and its operand is the field
the row names. -/
def Obligations.DecodeFollowsOpcodeMap : Prop :=
  ∀ w : Command,
    (decode w = .command .init ↔ w &&& 0xFFFF#16 = 0x1000#16) ∧
    (∀ b, decode w = .command (.push b) ↔ w &&& 0xFF00#16 = 0x2000#16 ∧ b = w.extractLsb' 0 8) ∧
    (decode w = .command .finish ↔ w &&& 0xFFFF#16 = 0x3000#16) ∧
    (∀ idx, decode w = .command (.rddig idx) ↔
      w &&& 0xF8FF#16 = 0x4000#16 ∧ idx = w.extractLsb' 8 4) ∧
    (decode w = .command .rdstat ↔ w &&& 0xFFFF#16 = 0x5000#16) ∧
    (∀ idx, decode w = .command (.rdlen idx) ↔
      w &&& 0xFEFF#16 = 0x6000#16 ∧ idx = w.extractLsb' 8 4)

/-- R71: the operands of RDDIG and RDLEN are the word index idx[10:8] and the half selector idx[8] of
the command word. -/
def Obligations.OperandsAreWordFields : Prop :=
  ∀ (w : Command) (idx : BitVec 4),
    (decode w = .command (.rddig idx) → (rddigIndex idx).val = (w.extractLsb' 8 3).toNat) ∧
    (decode w = .command (.rdlen idx) → rdlenLow idx = w.getLsbD 8)

/-- 95_test_vectors.md section 2.6: the words of the decoding table, legal and ILLEGAL. -/
def Obligations.DecodingTableWords : Prop :=
  (decode 0x1000#16 = .command .init ∧ decode 0x2000#16 = .command (.push 0x00#8) ∧
    decode 0x20ff#16 = .command (.push 0xff#8) ∧ decode 0x3000#16 = .command .finish ∧
    decode 0x4000#16 = .command (.rddig 0#4) ∧ decode 0x4700#16 = .command (.rddig 7#4) ∧
    decode 0x5000#16 = .command .rdstat ∧ decode 0x6000#16 = .command (.rdlen 0#4) ∧
    decode 0x6100#16 = .command (.rdlen 1#4)) ∧
  ∀ w ∈ [0x0000#16, 0x1001#16, 0x2100#16, 0x3080#16, 0x4800#16, 0x4001#16, 0x5100#16, 0x6200#16,
      0x7000#16, 0xf000#16, 0xffff#16],
    ∃ why, decode w = .illegal why

/-- R77, R78: the words of the assembler lines, and the expansions of the pseudo-instructions, PUSHS and
HASH for every ASCII text; an operand out of range is an assembly error. Lines are terms and not text,
and WAITIDLE takes the number of times the host's loop has gone round again: both are the model's choice
(log entry 11). -/
def Obligations.AssemblerLineWords : Prop :=
  assemble .init = .words [0x1000#16] ∧ assemble .finish = .words [0x3000#16] ∧
  assemble .rdstat = .words [0x5000#16] ∧
  (∀ b : Byte, assemble (.push b.toNat) = .words [0x2000#16 ||| b.setWidth 16]) ∧
  (∀ i : BitVec 3, assemble (.rddig i.toNat) = .words [0x4000#16 ||| (i.setWidth 16 <<< 8)]) ∧
  (∀ j : BitVec 1, assemble (.rdlen j.toNat) = .words [0x6000#16 ||| (j.setWidth 16 <<< 8)]) ∧
  (∀ w : Command, assemble (.word w.toNat) = .words [w]) ∧
  (∀ n, 256 ≤ n → assemble (.push n) = .error .operandOutOfRange) ∧
  (∀ n, 8 ≤ n → assemble (.rddig n) = .error .operandOutOfRange) ∧
  (∀ n, 2 ≤ n → assemble (.rdlen n) = .error .operandOutOfRange) ∧
  (∀ bs : List Byte,
    assemble (.pushb (bs.map BitVec.toNat)) = .words (bs.map fun b => 0x2000#16 ||| b.setWidth 16)) ∧
  (∀ text : List Char, (∀ c ∈ text, c.toNat < 128) →
    assemble (.pushs text) = .words (text.map fun c => 0x2000#16 ||| BitVec.ofNat 16 c.toNat) ∧
    assemble (.hash text) =
      .words ([0x1000#16] ++ (text.map fun c => 0x2000#16 ||| BitVec.ofNat 16 c.toNat) ++ [0x3000#16] ++
        [0x4000#16, 0x4100#16, 0x4200#16, 0x4300#16, 0x4400#16, 0x4500#16, 0x4600#16, 0x4700#16])) ∧
  assemble .rddigAll = .words [0x4000#16, 0x4100#16, 0x4200#16, 0x4300#16, 0x4400#16, 0x4500#16,
    0x4600#16, 0x4700#16] ∧
  assemble .rdlenAll = .words [0x6000#16, 0x6100#16] ∧
  (∀ again : Nat, assemble (.waitIdle again) = .words (List.replicate (again + 1) 0x5000#16))

/-! ### The machine's step -/

/-- R190: a host step accepts the word at the head of the port. When the reset input is low and the
command is not held, and in BUSY it is the host's turn, the step is exec of the decoded command at the
state that differs only in what the step does to the inputs: the word has left the port and no command
is pending, the reset input has moved on, and the next free choice of the schedule is drawn. The form of
the inputs and of the schedule is the model's choice (log entries 2, 3, 4 and 6). -/
def Obligations.StepRunsDecodedCommand : Prop :=
  ∀ (s : State) (w : Command) (rest : List Command) (i : Instr),
    s.port = w :: rest → decode w = .command i → s.resetIn.headD false = false →
    (s.phase = .busy → waitsForCore i = false ∧ s.turn = .host) →
    step s = exec i s.accept ∧
    s.accept =
      { s with
        port := rest
        pending := false
        resetIn := s.resetIn.tail
        turn := Config.nextTurn s.clock
        clock := s.clock + 1 }

/-- R191: while the core is BUSY, a PUSH, FINISH, RDDIG or RDLEN at the head of the port is held: the
step is the core's, whoever's turn it is, and it answers a next state; the command stays where it is with
no error and no response, and is the host's pending command from then on (log entry 6). INIT, RDSTAT and
ILLEGAL words are never held. -/
def Obligations.HeldCommandStaysAtHead : Prop :=
  (∀ (s : State) (w : Command) (rest : List Command) (i : Instr),
    s.port = w :: rest → decode w = .command i → waitsForCore i = true → s.phase = .busy →
    s.resetIn.headD false = false →
    step s = coreStep s.tick ∧
    ∃ t, step s = .next t ∧
      t.port = s.port ∧ t.pending = true ∧ t.err = s.err ∧ t.ecode = s.ecode ∧ t.faults = s.faults ∧
      t.responses = s.responses) ∧
  (∀ i : Instr, waitsForCore i = true ↔
    (∃ b, i = .push b) ∨ i = .finish ∨ (∃ idx, i = .rddig idx) ∨ ∃ idx, i = .rdlen idx) ∧
  (∀ w why, decode w = .illegal why → wordWaits w = false)

/-- R198, R216: an ILLEGAL word at the head of the port raises ILLEGAL_CMD in every phase, is never
held and returns nothing. ERR and ECODE change (and the model's fault record, R213), the word leaves the
port and the inputs move on; nothing else changes, the block in progress included. In BUSY the step is
the host's when the free schedule of R61 gives it the turn. -/
def Obligations.IllegalWordRaises : Prop :=
  ∀ (s : State) (w : Command) (rest : List Command) (why : DecodeError),
    s.port = w :: rest → decode w = .illegal why → s.resetIn.headD false = false →
    (s.phase = .busy → s.turn = .host) →
    ∃ t, step s = .next t ∧
      t = { s with
        err := true
        ecode := if s.err then s.ecode else 1#4
        faults := s.faults ++ [.illegalCmd]
        port := rest
        pending := t.pending
        resetIn := t.resetIn
        turn := t.turn
        clock := t.clock }

/-- R230, R231: when the reset input is asserted, in any phase and before any other move, the step is
the reset: every register takes its reset value, V and W hold no value, STATUS reads 1, and the host's
pending command is discarded: the command at the head of the port, when it is held now or has been held
and not yet accepted. That this is the pending command is the model's reading (log entry 6); that the
responses and the fault records stay is the model's choice (log entries 5 and 10), and so is the form of
the reset input (log entry 4). -/
def Obligations.ResetTakesPrecedence : Prop :=
  ∀ s : State, s.resetIn.headD false = true →
    ∃ t, step s = .next t ∧
      t.H = H0 ∧ (∀ o, t.M.read o = 0#8) ∧ t.cur = 0#6 ∧ t.L = 0#64 ∧ t.t = 0 ∧ t.kind = .data ∧
      t.err = false ∧ t.ecode = 0#4 ∧ t.lenOvf = false ∧ t.phase = .accept ∧ t.vwLoaded = false ∧
      t.status = 0x00000001#32 ∧
      (s.port = [] → t.port = []) ∧
      (∀ w rest, s.port = w :: rest →
        t.port = if s.pending || (decide (s.phase = .busy) && wordWaits w) then rest else w :: rest) ∧
      t.pending = false ∧ t.responses = s.responses ∧ t.faults = s.faults ∧
      t.noValueRead = s.noValueRead ∧ t.resetIn = s.resetIn.tail

/-- R20, R230: the values the spec gives for reset. -/
def Obligations.ResetLeavesSpecValues : Prop :=
  State.reset.H = #v[0x6a09e667#32, 0xbb67ae85#32, 0x3c6ef372#32, 0xa54ff53a#32, 0x510e527f#32,
    0x9b05688c#32, 0x1f83d9ab#32, 0x5be0cd19#32] ∧
  (∀ o, State.reset.M.read o = 0#8) ∧ State.reset.cur = 0#6 ∧ State.reset.L = 0#64 ∧
  State.reset.t = 0 ∧ State.reset.kind = .data ∧ State.reset.err = false ∧
  State.reset.ecode = 0#4 ∧ State.reset.lenOvf = false ∧ State.reset.phase = .accept ∧
  State.reset.vwLoaded = false ∧ State.reset.status = 0x00000001#32

/-- R173, R225, R180: with no command and no reset, a core that is not BUSY keeps its whole state. That
such a step exists and changes nothing is the model's choice (log entry 7). -/
def Obligations.IdleCoreKeepsState : Prop :=
  ∀ s : State, s.port = [] → s.resetIn = [] → s.phase ≠ .busy → step s = .next s

/-! ### Invariants -/

/-- R37, all but one clause: every step from every state that meets the invariant leads to one that meets
it. The clause of R37.4 that in DONE H holds the digest of the message is not in State.Inv, which speaks
of one state alone: RunComputesDigest states it. -/
def Obligations.InvKeptByStep : Prop :=
  ∀ s t : State, s.Inv → step s = .next t → t.Inv

/-- R37, all but the clause of R37.4 on the digest (see InvKeptByStep): the reset state meets the
invariant. -/
def Obligations.InvHoldsAtReset : Prop := State.reset.Inv

/-- R210, R232: in every state every step answers a next state; and from a state that meets the invariant
no step reads V or W while they hold no value ("No rule does so"). (How "no value" is held and a read of
it recorded is the model's choice, log entry 1.) -/
def Obligations.NoStepStops : Prop :=
  (∀ s : State, ∃ t, step s = .next t) ∧
  (∀ s t : State, s.Inv → step s = .next t → t.noValueRead = s.noValueRead)

/-- R22, R23, R230, R232: a core step in BUSY while V and W hold no value, which no run from reset has,
goes on with unspecified words: it is the core step of the state whose V and W are the free values, and
it is recorded. No other step makes that record, and none clears it. (That the read is recorded and does
not stop the machine, and the form of the free values, are the model's choice, log entries 1 and 10.) -/
def Obligations.UnloadedCoreStepReadsFreeValues : Prop :=
  (∀ s : State, s.phase = .busy → s.vwLoaded = false →
    coreStep s = coreStep
      { s with
        V := Config.unspecifiedV s.clock
        W := Config.unspecifiedW s.clock
        vwLoaded := true
        noValueRead := true }) ∧
  (∀ s t : State, step s = .next t →
    (t.noValueRead = true ↔
      s.noValueRead = true ∨ (s.nextMove = .core ∧ s.phase = .busy ∧ s.vwLoaded = false)))

/-- R176: with finitely many commands left and no reset, every BUSY period ends, under every schedule:
each step accepts a command or is one of at most 130 core steps. (The form of the commands and of the
schedule is the model's choice, log entries 2 and 3.) -/
def Obligations.BusyPeriodEnds : Prop :=
  ∀ s : State, s.Inv → s.phase = .busy → s.resetIn = [] →
    ∃ k t, k ≤ s.port.length + 130 ∧ steps k s = .next t ∧ t.phase ≠ .busy

/-- R61, R196: in BUSY, with a command at the head of the port that is not held and no reset, the step is
the core's or accepts the command as the schedule says; and every step that any agent takes, and every
reset step, draws the schedule's next choice afresh, so that after it nothing fixes who moves. That
choice is a constant with no body (log entry 2), so a claim about a run holds for every number of core
steps before an RDSTAT, zero included. -/
def Obligations.ScheduleIsDrawnAtEveryStep : Prop :=
  (∀ (s : State) (w : Command) (rest : List Command), s.phase = .busy → s.port = w :: rest →
    wordWaits w = false → s.resetIn.headD false = false →
    (s.turn = .core → s.nextMove = .core) ∧ (s.turn = .host → s.nextMove = .command w)) ∧
  (∀ s t : State, step s = .next t → s.nextMove ≠ .idle →
    t.turn = Config.nextTurn s.clock ∧ t.clock = s.clock + 1)

/-! ### The commands -/

/-- R192: INIT in every phase. V, W, whether they hold a value, and what the host has received stay;
INIT after INIT changes nothing more, and STATUS then reads 1. -/
def Obligations.InitEffect : Prop :=
  ∀ s : State, ∃ t, exec .init s = .next t ∧
    t = { s with
      H := H0, M := t.M, cur := 0#6, L := 0#64, t := 0, kind := .data, err := false, ecode := 0#4,
      lenOvf := false, phase := .accept } ∧
    (∀ o, t.M.read o = 0#8) ∧ exec .init t = .next t ∧ t.status = 0x00000001#32

/-- R193: PUSH in each phase. In ACCEPT the byte goes to the cursor and no other byte of M changes,
unless it is byte 63: then the whole block is loaded as DATA and M is cleared. In BUSY the command is
held: no effect and no error. That exec of a held command, which no step calls, answers the state
unchanged is the model's choice (log entry 7). -/
def Obligations.PushEffect : Prop :=
  ∀ (s : State) (b : Byte), s.M.wf = true →
    (s.phase = .accept → s.cur ≠ 63#6 →
      ∃ m, exec (.push b) s = .next
        { s with
          M := m
          lenOvf := s.lenOvf || decide (2 ^ 64 ≤ s.L.toNat + 8)
          L := s.L + 8#64
          cur := s.cur + 1#6 } ∧
        ∀ o : Offset, m.read o = if o = s.cur then b else s.M.read o) ∧
    (s.phase = .accept → s.cur = 63#6 →
      ∃ m, exec (.push b) s = .next
        { s with
          W := expand (blockWords fun o => if o = 63#6 then b else s.M.read o)
          V := s.H
          vwLoaded := true
          M := m
          lenOvf := s.lenOvf || decide (2 ^ 64 ≤ s.L.toNat + 8)
          L := s.L + 8#64
          cur := 0#6
          t := 0
          kind := .data
          phase := .busy } ∧
        ∀ o : Offset, m.read o = 0#8) ∧
    (s.phase = .busy → exec (.push b) s = .next s) ∧
    (s.phase = .done → exec (.push b) s = .next
      { s with
        err := true
        ecode := if s.err then s.ecode else 2#4
        faults := s.faults ++ [.pushInDone] })

/-- R194: FINISH in each phase. In ACCEPT with c = cur the loaded block holds the bytes below c, 0x80
at c, zeros after it and, when c ≤ 55, the length in bytes 56 to 63 (kind FINAL); when c ≥ 56 it holds
no length (kind PAD1). H, L and LEN_OVF are not written and M is cleared by the load. In BUSY the
command is held; that exec of a held command, which no step calls, answers the state unchanged is the
model's choice (log entry 7). -/
def Obligations.FinishEffect : Prop :=
  ∀ s : State, s.M.wf = true →
    (s.phase = .accept → s.cur.toNat ≤ 55 →
      ∃ m, exec .finish s = .next
        { s with
          W := expand (blockWords fun o =>
            if 56 ≤ o.toNat then s.L.extractLsb' (8 * (63 - o.toNat)) 8
            else if o = s.cur then 0x80#8
            else if s.cur.toNat < o.toNat then 0#8 else s.M.read o)
          V := s.H
          vwLoaded := true
          M := m
          cur := 0#6
          t := 0
          kind := .final
          phase := .busy } ∧
        ∀ o : Offset, m.read o = 0#8) ∧
    (s.phase = .accept → 56 ≤ s.cur.toNat →
      ∃ m, exec .finish s = .next
        { s with
          W := expand (blockWords fun o =>
            if o = s.cur then 0x80#8
            else if s.cur.toNat < o.toNat then 0#8 else s.M.read o)
          V := s.H
          vwLoaded := true
          M := m
          cur := 0#6
          t := 0
          kind := .pad1
          phase := .busy } ∧
        ∀ o : Offset, m.read o = 0#8) ∧
    (s.phase = .busy → exec .finish s = .next s) ∧
    (s.phase = .done → exec .finish s = .next
      { s with
        err := true
        ecode := if s.err then s.ecode else 3#4
        faults := s.faults ++ [.finishInDone] })

/-- R195: RDDIG in each phase, for every word index i. In DONE it returns H[i] and changes nothing
else; in ACCEPT it is refused, and some response, which this statement leaves open, stands for its
unspecified read data; in BUSY it is held. That exec of a held command, which no step calls, answers the
state unchanged is the model's choice (log entry 7). -/
def Obligations.RddigEffect : Prop :=
  ∀ (s : State) (i : Fin 8),
    (s.phase = .done → exec (.rddig (BitVec.ofNat 4 i.val)) s = .next
      { s with responses := s.responses ++ [.data s.H[i]] }) ∧
    (s.phase = .accept → ∃ r, exec (.rddig (BitVec.ofNat 4 i.val)) s = .next
      { s with
        err := true
        ecode := if s.err then s.ecode else 4#4
        faults := s.faults ++ [.rddigNotDone]
        responses := s.responses ++ [r] }) ∧
    (s.phase = .busy → exec (.rddig (BitVec.ofNat 4 i.val)) s = .next s)

/-- R196: RDSTAT returns STATUS in every phase and changes nothing else. -/
def Obligations.RdstatEffect : Prop :=
  ∀ s : State, exec .rdstat s = .next { s with responses := s.responses ++ [.data s.status] }

/-- R197: RDLEN in each phase. Outside BUSY, RDLEN 0 returns L[63:32] and RDLEN 1 returns L[31:0], and
nothing else changes; in BUSY both are held. That exec of a held command, which no step calls, answers
the state unchanged is the model's choice (log entry 7). -/
def Obligations.RdlenEffect : Prop :=
  ∀ s : State,
    (s.phase ≠ .busy →
      exec (.rdlen 0#4) s = .next { s with responses := s.responses ++ [.data (s.L.extractLsb' 32 32)] } ∧
      exec (.rdlen 1#4) s = .next { s with responses := s.responses ++ [.data (s.L.extractLsb' 0 32)] }) ∧
    (s.phase = .busy → exec (.rdlen 0#4) s = .next s ∧ exec (.rdlen 1#4) s = .next s)

/-- The model's choice (log entry 9), read from R74: a RDDIG or RDLEN term that is not well formed has
an ILLEGAL word, and its effect is that of the ILLEGAL word in every phase. -/
def Obligations.IllFormedReadIsIllegal : Prop :=
  ∀ (s : State) (i : Instr), ¬ i.WellFormed →
    (∃ why, decode (encode i) = .illegal why) ∧
    exec i s = .next
      { s with
        err := true
        ecode := if s.err then s.ecode else 1#4
        faults := s.faults ++ [.illegalCmd] }

/-! ### Whole-machine rules -/

/-- R73: the read commands change no state of the core other than ERR and ECODE. -/
def Obligations.ReadCommandsChangeNoState : Prop :=
  ∀ (s t : State) (i : Instr), (i = .rdstat ∨ (∃ idx, i = .rddig idx) ∨ ∃ idx, i = .rdlen idx) →
    exec i s = .next t →
    t = { s with err := t.err, ecode := t.ecode, faults := t.faults, responses := t.responses }

/-- R38: no command reads V, W, kind, t or M: whatever they hold, the host gets the same responses, the
same STATUS, the same bit length and the same hash state. -/
def Obligations.HiddenStateIsUnread : Prop :=
  ∀ (s : State) (V : Vector Word 8) (W : Vector Word 64) (v : Bool) (k : Kind) (r : Fin 65) (m : Memory)
    (i : Instr) (a b : State),
    exec i s = .next a →
    exec i { s with V := V, W := W, vwLoaded := v, kind := k, t := r, M := m } = .next b →
    a.responses = b.responses ∧ a.status = b.status ∧ a.L = b.L ∧ a.H = b.H ∧ a.port = b.port

/-- R21: only INIT, reset and the final-add step write H. -/
def Obligations.HashWriters : Prop :=
  ∀ s t : State, step s = .next t → t.H ≠ s.H →
    s.nextMove = .reset ∨ s.nextMove = .command 0x1000#16 ∨
    (s.nextMove = .core ∧ s.phase = .busy ∧ s.t.val = 64)

/-- R26: L changes only by an accepted PUSH, which adds 8 modulo 2^64, or to 0 by INIT or reset. -/
def Obligations.BitLengthWriters : Prop :=
  ∀ s t : State, step s = .next t → t.L ≠ s.L →
    ((∃ b, s.nextMove = .command (encode (.push b))) ∧ s.phase = .accept ∧ t.L = s.L + 8#64) ∨
    ((s.nextMove = .command 0x1000#16 ∨ s.nextMove = .reset) ∧ t.L = 0#64)

/-- R30: ERR is sticky: only INIT and reset clear it. -/
def Obligations.ErrClearedOnlyByInitOrReset : Prop :=
  ∀ s t : State, step s = .next t → s.err = true → t.err = false →
    s.nextMove = .reset ∨ s.nextMove = .command 0x1000#16

/-- R31, R218: ECODE keeps the code of the first protocol error since the last INIT or reset: while
ERR stays 1 it does not change, and a step that sets ERR writes the code of the error it records. -/
def Obligations.EcodeKeepsFirstCause : Prop :=
  ∀ s t : State, step s = .next t →
    (s.err = true → t.err = true → t.ecode = s.ecode) ∧
    (s.err = false → t.err = true → ∃ e : ProtocolError, t.faults = s.faults ++ [e] ∧ t.ecode = e.code) ∧
    (s.err = false → t.err = false → t.ecode ≠ s.ecode → t.ecode = 0#4)

/-- R32: LEN_OVF is sticky, only INIT and reset clear it, and it is set exactly by an accepted PUSH for
which L + 8 ≥ 2^64, which is no protocol error: ERR is unchanged. -/
def Obligations.LenOvfSticky : Prop :=
  ∀ s t : State, step s = .next t →
    (s.lenOvf = true → t.lenOvf = false → s.nextMove = .reset ∨ s.nextMove = .command 0x1000#16) ∧
    (s.lenOvf = false → t.lenOvf = true →
      (∃ b, s.nextMove = .command (encode (.push b))) ∧ s.phase = .accept ∧
        2 ^ 64 ≤ s.L.toNat + 8 ∧ t.err = s.err)

/-- R213: the fault record is never cleared by a later step, not even by INIT: it only grows, by one
protocol error at a time, with ERR set, and the record of a read of V and W with no value stays once it
is made; a run with either is faulted and never final; and the read data of a refused RDDIG is no value.
(The form of the fault records is the model's choice, and so is that a reset step keeps them, log
entries 1, 5 and 10.) -/
def Obligations.FaultRecordOnlyGrows : Prop :=
  (∀ s t : State, step s = .next t → t.faults = s.faults ∨ ∃ e, t.faults = s.faults ++ [e] ∧ t.err = true) ∧
  (∀ s t : State, step s = .next t → s.noValueRead = true → t.noValueRead = true) ∧
  (∀ s : State, s.faulted = true ↔ s.faults ≠ [] ∨ s.noValueRead = true) ∧
  (∀ s : State, s.faulted = true → s.final = false) ∧
  (∀ (s t : State) (idx : BitVec 4), (Instr.rddig idx).WellFormed → s.phase = .accept →
    exec (.rddig idx) s = .next t → t.responses = s.responses ++ [.noValue])

/-- R179: DONE is stable: only INIT or reset leaves it, and until then H and L keep their values. -/
def Obligations.DoneIsStable : Prop :=
  ∀ s t : State, s.phase = .done → step s = .next t →
    s.nextMove ≠ .reset → s.nextMove ≠ .command 0x1000#16 →
    t.phase = .done ∧ t.H = s.H ∧ t.L = s.L ∧ t.M = s.M ∧ t.cur = s.cur

/-- R35: every field of STATUS in every state; the reserved bits read 0, exactly one of bits 0, 1, 2 is
1, and STATUS reads 0x00000001 after reset. -/
def Obligations.StatusLayout : Prop :=
  (∀ s : State,
    s.status.getLsbD 0 = decide (s.phase = .accept) ∧ s.status.getLsbD 1 = decide (s.phase = .busy) ∧
    s.status.getLsbD 2 = decide (s.phase = .done) ∧ s.status.getLsbD 3 = s.err ∧
    s.status.getLsbD 4 = s.lenOvf ∧ s.status.extractLsb' 5 3 = 0#3 ∧ s.status.extractLsb' 8 6 = s.cur ∧
    s.status.extractLsb' 14 2 = 0#2 ∧ s.status.extractLsb' 16 4 = s.ecode ∧
    s.status.extractLsb' 20 12 = 0#12 ∧
    (s.status.extractLsb' 0 3 = 1#3 ∨ s.status.extractLsb' 0 3 = 2#3 ∨ s.status.extractLsb' 0 3 = 4#3)) ∧
  State.reset.status = 0x00000001#32

/-- R211: the codes of the causes, and which command raises which cause in which phase: a command of
the core raises at most one, and no other command in any phase raises one. (ILLEGAL_CMD is the ILLEGAL
word's, see IllegalWordRaises.) -/
def Obligations.ProtocolErrorCauses : Prop :=
  (ProtocolError.illegalCmd.code = 1#4 ∧ ProtocolError.pushInDone.code = 2#4 ∧
    ProtocolError.finishInDone.code = 3#4 ∧ ProtocolError.rddigNotDone.code = 4#4) ∧
  ∀ (s t : State) (i : Instr), i.WellFormed → exec i s = .next t →
    (t.faults = s.faults ∨ ∃ e, t.faults = s.faults ++ [e]) ∧
    ∀ e, t.faults = s.faults ++ [e] ↔
      (e = .pushInDone ∧ (∃ b, i = .push b) ∧ s.phase = .done) ∨
      (e = .finishInDone ∧ i = .finish ∧ s.phase = .done) ∨
      (e = .rddigNotDone ∧ (∃ idx, i = .rddig idx) ∧ s.phase = .accept)

/-! ### The core's steps -/

/-- R174: the round step, in BUSY with t < 64, writes only V and t. V and W hold a value there (R22,
R23), which the invariant of R37 states. -/
def Obligations.RoundStepEffect : Prop :=
  ∀ (s : State) (i : Fin 64), s.phase = .busy → s.vwLoaded = true → s.t.val = i.val →
    coreStep s = .next { s with V := compressRound s.V K[i] s.W[i], t := i.succ }

/-- R175: the final-add step, in BUSY with t = 64, adds V into H word by word. A DATA block goes to
ACCEPT and a FINAL block to DONE, with nothing else written. A PAD1 block, for which M is all 0x00
here, loads the length-only block: bytes 0 to 55 zero, L in bytes 56 to 63, kind FINAL. -/
def Obligations.FinalAddEffect : Prop :=
  ∀ s : State, s.phase = .busy → s.vwLoaded = true → s.t.val = 64 →
    (s.kind = .data → coreStep s = .next
      { s with H := Vector.ofFn fun j => s.H[j] + s.V[j], phase := .accept }) ∧
    (s.kind = .final → coreStep s = .next
      { s with H := Vector.ofFn fun j => s.H[j] + s.V[j], phase := .done }) ∧
    (s.kind = .pad1 → s.M.wf = true → (∀ o, s.M.read o = 0#8) →
      ∃ m, coreStep s = .next
        { s with
          H := Vector.ofFn fun j => s.H[j] + s.V[j]
          V := Vector.ofFn fun j => s.H[j] + s.V[j]
          W := expand (blockWords fun o =>
            if 56 ≤ o.toNat then s.L.extractLsb' (8 * (63 - o.toNat)) 8 else 0#8)
          M := m
          cur := 0#6
          t := 0
          kind := .final } ∧
        ∀ o, m.read o = 0#8)

/-- R177, R150: a DATA or FINAL block just loaded takes exactly 65 core steps, whatever its data: the
core is BUSY after each of the first 64, and the 65th leaves H compressed with W and the core in ACCEPT
or in DONE. -/
def Obligations.BlockTakes65CoreSteps : Prop :=
  ∀ s : State, s.phase = .busy → s.vwLoaded = true → s.t = 0 → s.V = s.H → s.kind ≠ .pad1 →
    (∀ n, n ≤ 64 → ∃ t, coreSteps n s = .next t ∧ t.phase = .busy ∧ t.t.val = n) ∧
    ∃ t, coreSteps 65 s = .next t ∧ t.H = compress s.H s.W ∧
      t.phase = (if s.kind = .data then .accept else .done)

/-- R177, R194: from an accepted FINISH to DONE the core takes 65 core steps when c ≤ 55 and 130 when
c ≥ 56, whatever the data, and no fewer. -/
def Obligations.FinishReachesDone : Prop :=
  ∀ s t : State, s.phase = .accept → exec .finish s = .next t →
    (s.cur.toNat ≤ 55 →
      (∀ n, n < 65 → ∃ u, coreSteps n t = .next u ∧ u.phase = .busy) ∧
      ∃ u, coreSteps 65 t = .next u ∧ u.phase = .done) ∧
    (56 ≤ s.cur.toNat →
      (∀ n, n < 130 → ∃ u, coreSteps n t = .next u ∧ u.phase = .busy) ∧
      ∃ u, coreSteps 130 t = .next u ∧ u.phase = .done)

/-- R178, R237: from any state as just after INIT or reset, with the commands PUSH for each byte of msg
and then FINISH, and no reset, the machine reaches DONE with the digest of msg in H after exactly one
step for each command and 65 for each block of pad(msg), under every schedule and for every message.
L is its bit length modulo 2^64 and ERR is 0. -/
def Obligations.RunComputesDigest : Prop :=
  ∀ (s : State) (msg : List Byte), s.Fresh → s.resetIn = [] → s.port = messageWords msg →
    ∃ t, steps (msg.length + 1 + 65 * (pad msg).length) s = .next t ∧
      t.phase = .done ∧ t.port = [] ∧ serialize t.H = digest msg ∧ t.L = bitLength msg ∧ t.err = false

/-! ### The pure functions -/

/-- R121 to R124, R126: the padded stream is the message, the byte 0x80, zeros, and the bit length
modulo 2^64 in the last eight bytes, most significant first, in whole blocks. -/
def Obligations.PaddedStreamLayout : Prop :=
  ∀ msg : List Byte,
    (pad msg).flatten =
      msg ++ [0x80#8] ++ List.replicate (64 * ((msg.length + 8) / 64 + 1) - (msg.length + 9)) 0#8 ++
        be64 (BitVec.ofNat 64 (8 * msg.length)) ∧
    ∀ b ∈ pad msg, b.length = 64

/-- R125: the number of blocks. -/
def Obligations.PadBlockCount : Prop :=
  ∀ msg : List Byte,
    (msg.length % 64 ≤ 55 → (pad msg).length = msg.length / 64 + 1) ∧
    (56 ≤ msg.length % 64 → (pad msg).length = msg.length / 64 + 2) ∧
    (pad msg).length = (msg.length + 8) / 64 + 1 ∧
    (pad msg).length = (msg.length + 9 + 63) / 64 ∧
    1 ≤ (pad msg).length ∧
    512 ∣ 8 * (pad msg).flatten.length ∧
    8 * msg.length + 72 ≤ 8 * (pad msg).flatten.length

/-- R127: the empty message is one block, 0x80 and zeros; as words, W0 = 0x80000000 and the rest 0. -/
def Obligations.PadOfEmptyMessage : Prop :=
  pad [] = [0x80#8 :: List.replicate 63 0#8] ∧
  ∀ j : Fin 16, (blockWords (blockByte (0x80#8 :: List.replicate 63 0#8)))[j] =
    if j.val = 0 then 0x80000000#32 else 0#32

/-- R128: a message of a whole number of blocks, one at least, gets one more block of padding and
length only. -/
def Obligations.PadOfWholeBlocks : Prop :=
  ∀ msg : List Byte, 0 < msg.length → msg.length % 64 = 0 →
    pad msg = dataBlocks msg ++ [0x80#8 :: List.replicate 55 0#8 ++ be64 (bitLength msg)] ∧
    (dataBlocks msg).flatten = msg

/-- R141, R142: words 0 to 15 of the schedule are the block's, and each later word is the sum modulo
2^32 of the recurrence over four earlier ones. -/
def Obligations.ScheduleRecurrence : Prop :=
  ∀ B : Vector Word 16,
    (∀ i : Fin 16, (expand B)[i.val] = B[i]) ∧
    ∀ i : Fin 48, (expand B)[i.val + 16] =
      ssig1 (expand B)[i.val + 14] + (expand B)[i.val + 9] + ssig0 (expand B)[i.val + 1] + (expand B)[i.val]

/-- R153: one round, all eight results from the old values. -/
def Obligations.RoundEquation : Prop :=
  ∀ (a b c d e f g h k w : Word),
    compressRound #v[a, b, c, d, e, f, g, h] k w =
      #v[(h + bsig1 e + ch e f g + k + w) + (bsig0 a + maj a b c), a, b, c,
        d + (h + bsig1 e + ch e f g + k + w), e, f, g]

/-- R150, R152, R154: the compressor is 64 rounds in order from V = Hin, round i with K[i] and W[i], and
then the word by word sum. -/
def Obligations.CompressIs64Rounds : Prop :=
  ∀ (Hin : Vector Word 8) (W : Vector Word 64) (j : Fin 8),
    (compress Hin W)[j] =
      Hin[j] + ((List.finRange 64).foldl (fun V i => compressRound V K[i] W[i]) Hin)[j]

/-- R101: right rotation, by formula and bit by bit; n counts modulo 32. -/
def Obligations.RotrBits : Prop :=
  (∀ x : Word, rotr x 0 = x) ∧
  (∀ (x : Word) (n : Nat), 1 ≤ n → n ≤ 31 → rotr x n = (x >>> n) ||| (x <<< (32 - n))) ∧
  (∀ (x : Word) (n k : Nat), k < 32 → (rotr x n).getLsbD k = x.getLsbD ((k + n) % 32)) ∧
  (∀ (x : Word) (n : Nat), rotr x n = rotr x (n % 32))

/-- R103 to R106: the four mixing functions by their formulas, bit by bit: bit k of each is the
exclusive or of the rotated (or shifted) bits of x. -/
def Obligations.SigmaBits : Prop :=
  ∀ (x : Word) (k : Nat), k < 32 →
    (ssig0 x).getLsbD k = ((x.getLsbD ((k + 7) % 32) ^^ x.getLsbD ((k + 18) % 32)) ^^ x.getLsbD (k + 3)) ∧
    (ssig1 x).getLsbD k = ((x.getLsbD ((k + 17) % 32) ^^ x.getLsbD ((k + 19) % 32)) ^^ x.getLsbD (k + 10)) ∧
    (bsig0 x).getLsbD k =
      ((x.getLsbD ((k + 2) % 32) ^^ x.getLsbD ((k + 13) % 32)) ^^ x.getLsbD ((k + 22) % 32)) ∧
    (bsig1 x).getLsbD k =
      ((x.getLsbD ((k + 6) % 32) ^^ x.getLsbD ((k + 11) % 32)) ^^ x.getLsbD ((k + 25) % 32))

/-- R107: choose, bit by bit, and its corner cases. -/
def Obligations.ChBits : Prop :=
  (∀ (x y z : Word) (k : Nat),
    (ch x y z).getLsbD k = if x.getLsbD k then y.getLsbD k else z.getLsbD k) ∧
  (∀ y z : Word, ch 0xFFFFFFFF#32 y z = y ∧ ch 0#32 y z = z) ∧
  (∀ x y : Word, ch x y y = y)

/-- R108: majority, bit by bit: the bit is 1 exactly when at least two operands' bits are; and its
corner cases. -/
def Obligations.MajBits : Prop :=
  (∀ (x y z : Word) (k : Nat),
    (maj x y z).getLsbD k = true ↔
      2 ≤ (x.getLsbD k).toNat + (y.getLsbD k).toNat + (z.getLsbD k).toNat) ∧
  (∀ x z : Word, maj x x z = x) ∧
  (∀ x y z : Word, maj x y z = maj y x z ∧ maj x y z = maj x z y)

/-- R100: add32 is the sum modulo 2^32 and equals pairwise addition modulo 2^32 in any order. -/
def Obligations.AddThirtyTwoAnyOrder : Prop :=
  (∀ xs : List Word, (add32 xs).toNat = (xs.map BitVec.toNat).sum % 2 ^ 32) ∧
  (∀ xs : List Word, add32 xs = xs.foldl (· + ·) 0#32) ∧
  (∀ xs ys : List Word, xs.Perm ys → add32 xs = add32 ys)

/-! ### Byte order -/

/-- R51, R55: byte j of a block lands in word j div 4 at bits [31 − 8(j mod 4) : 24 − 8(j mod 4)]. -/
def Obligations.BlockByteInWord : Prop :=
  ∀ (get : Offset → Byte) (j : Fin 16) (k : Fin 4),
    ((blockWords get)[j]).extractLsb' (24 - 8 * k.val) 8 = get (BitVec.ofNat 6 (4 * j.val + k.val))

/-- R52: the length field puts L[63−8k : 56−8k] into byte 56 + k and leaves bytes 0 to 55 alone; in word
terms, word 14 is L[63:32] and word 15 is L[31:0]. -/
def Obligations.LengthFieldBytes : Prop :=
  ∀ (m : Memory) (len : BitVec 64), m.wf = true →
    (∀ k : Fin 8, (m.withLengthField len).read (BitVec.ofNat 6 (56 + k.val)) =
      len.extractLsb' (56 - 8 * k.val) 8) ∧
    (∀ o : Offset, o.toNat < 56 → (m.withLengthField len).read o = m.read o) ∧
    (blockWords (m.withLengthField len).read)[14] = len.extractLsb' 32 32 ∧
    (blockWords (m.withLengthField len).read)[15] = len.extractLsb' 0 32

/-- R53: digest byte 4i + k is H[i][31−8k : 24−8k], and there are 32 of them. -/
def Obligations.DigestBytes : Prop :=
  ∀ h : Vector Word 8, (serialize h).length = 32 ∧
    ∀ (i : Fin 8) (k : Fin 4),
      (serialize h)[4 * i.val + k.val]? = some ((h[i]).extractLsb' (24 - 8 * k.val) 8)
end

