-- ==== Sys2Proof/Laws/Functions.lean ====
section
/-!
SUPPORT. add32 and the bit-length addition as bit-vector addition, which the bit-vector lemmas know.
-/

namespace Sys2Proof.Machine

@[simp] theorem add32_nil : add32 [] = 0#32 := rfl

@[simp] theorem add32_cons (x : Word) (xs : List Word) : add32 (x :: xs) = x + add32 xs := by
  apply BitVec.eq_of_toNat_eq
  simp [add32, BitVec.toNat_add]

@[simp] theorem lengthNext_eq (len : BitVec 64) : lengthNext len = len + 8#64 := by
  apply BitVec.eq_of_toNat_eq
  simp [lengthNext, BitVec.toNat_add]

end Sys2Proof.Machine
end

