-- ==== Sys2Proof/Laws/Memory.lean ====
section
/-!
SUPPORT. The laws of the staging block: every operation keeps the canonical form, a read after a write
gives the byte written, and a write leaves every other offset alone.
-/

namespace Sys2Proof.Machine

/-! ### The canonical form -/

theorem Memory.wfFrom_cons {lo a : Nat} {b : Byte} {m : Memory} :
    Memory.wfFrom lo ((a, b) :: m) = true ↔
      lo ≤ a ∧ a < 64 ∧ b ≠ Memory.unlisted ∧ Memory.wfFrom (a + 1) m = true := by
  simp only [Memory.wfFrom, Bool.and_eq_true, decide_eq_true_eq, bne_iff_ne, ne_eq, and_assoc]

theorem Memory.wfFrom_mono {lo lo' : Nat} {m : Memory} (h : lo ≤ lo') (hm : Memory.wfFrom lo' m = true) :
    Memory.wfFrom lo m = true := by
  cases m with
  | nil => rfl
  | cons c rest =>
    obtain ⟨a, b⟩ := c
    rw [Memory.wfFrom_cons] at hm ⊢
    exact ⟨by omega, hm.2⟩

theorem Memory.put_wfFrom {a lo : Nat} {b : Byte} (ha : a < 64) {m : Memory} (hlo : lo ≤ a)
    (hm : Memory.wfFrom lo m = true) : Memory.wfFrom lo (Memory.put a b m) = true := by
  induction m generalizing lo with
  | nil =>
    simp only [Memory.put]
    split
    · rfl
    · rename_i hb
      exact Memory.wfFrom_cons.2 ⟨hlo, ha, hb, rfl⟩
  | cons c rest ih =>
    obtain ⟨a', b'⟩ := c
    have hc := Memory.wfFrom_cons.1 hm
    simp only [Memory.put]
    split
    · split
      · exact hm
      · rename_i hlt hb
        exact Memory.wfFrom_cons.2 ⟨hlo, ha, hb, Memory.wfFrom_cons.2 ⟨by omega, hc.2⟩⟩
    · split
      · rename_i heq
        split
        · exact Memory.wfFrom_mono (by omega) hc.2.2.2
        · rename_i hb
          exact Memory.wfFrom_cons.2 ⟨hlo, ha, hb, heq ▸ hc.2.2.2⟩
      · exact Memory.wfFrom_cons.2 ⟨hc.1, hc.2.1, hc.2.2.1, ih (by omega) hc.2.2.2⟩

theorem Memory.wf_cleared : Memory.cleared.wf = true := rfl

theorem Memory.wf_write {m : Memory} (o : Offset) (b : Byte) (h : m.wf = true) : (m.write o b).wf = true :=
  Memory.put_wfFrom o.isLt (Nat.zero_le _) h

theorem Memory.wf_writeBytes {m : Memory} (j : Nat) (bs : List Byte) (h : m.wf = true) :
    (m.writeBytes j bs).wf = true := by
  induction bs generalizing m j with
  | nil => exact h
  | cons b bs ih => exact ih _ (Memory.wf_write _ _ h)

theorem Memory.wf_padded {m : Memory} (c : Offset) (h : m.wf = true) : (m.padded c).wf = true :=
  Memory.wf_writeBytes _ _ (Memory.wf_write _ _ h)

theorem Memory.wf_withLengthField {m : Memory} (len : BitVec 64) (h : m.wf = true) :
    (m.withLengthField len).wf = true :=
  Memory.wf_writeBytes _ _ h

theorem State.reset_memory_wf : State.reset.M.wf = true := rfl

/-! ### Reading -/

@[simp] theorem Memory.read_cleared (o : Offset) : Memory.cleared.read o = 0#8 := rfl

/-- Below the first cell nothing is listed. -/
theorem Memory.read_of_lt {lo : Nat} {m : Memory} {o : Offset} (hm : Memory.wfFrom lo m = true)
    (ho : o.toNat < lo) : m.read o = Memory.unlisted := by
  induction m generalizing lo with
  | nil => rfl
  | cons c rest ih =>
    obtain ⟨a, b⟩ := c
    have hc := Memory.wfFrom_cons.1 hm
    simp only [Memory.read]
    rw [if_neg (by omega)]
    exact ih hc.2.2.2 (by omega)

theorem Memory.read_put {lo a : Nat} {b : Byte} {m : Memory} {o : Offset}
    (hm : Memory.wfFrom lo m = true) :
    (Memory.put a b m).read o = if a = o.toNat then b else m.read o := by
  induction m generalizing lo with
  | nil =>
    by_cases hb : b = Memory.unlisted <;> by_cases ha : a = o.toNat <;> simp [Memory.put, Memory.read, hb, ha]
  | cons c rest ih =>
    obtain ⟨a', b'⟩ := c
    have hc := Memory.wfFrom_cons.1 hm
    have htail : o.toNat < a' + 1 → Memory.read rest o = Memory.unlisted := Memory.read_of_lt hc.2.2.2
    simp only [Memory.put]
    by_cases hlt : a < a'
    · rw [if_pos hlt]
      by_cases hb : b = Memory.unlisted
      · rw [if_pos hb]
        by_cases ha : a = o.toNat
        · rw [if_pos ha, hb]
          simp only [Memory.read]
          rw [if_neg (by omega)]
          exact htail (by omega)
        · rw [if_neg ha]
      · rw [if_neg hb]
        simp only [Memory.read]
    · rw [if_neg hlt]
      by_cases heq : a = a'
      · rw [if_pos heq]
        by_cases hb : b = Memory.unlisted
        · rw [if_pos hb]
          by_cases ha : a = o.toNat
          · rw [if_pos ha, hb]
            exact htail (by omega)
          · rw [if_neg ha]
            simp only [Memory.read]
            rw [if_neg (by omega)]
        · rw [if_neg hb]
          simp only [Memory.read]
          by_cases ha : a = o.toNat
          · rw [if_pos ha, if_pos ha]
          · rw [if_neg ha, if_neg ha, if_neg (by omega)]
      · rw [if_neg heq]
        simp only [Memory.read]
        by_cases ha' : a' = o.toNat
        · rw [if_pos ha', if_pos ha', if_neg (by omega)]
        · rw [if_neg ha', if_neg ha']
          exact ih hc.2.2.2

/-- A read after a write: the byte written at the offset written, the old byte anywhere else. -/
theorem Memory.read_write {m : Memory} {o o' : Offset} {b : Byte} (h : m.wf = true) :
    (m.write o b).read o' = if o = o' then b else m.read o' := by
  rw [Memory.write, Memory.read_put h]
  simp only [BitVec.toNat_inj]

/-- A read after `MemWrite`: the byte of the list at the offsets it covers, the old byte anywhere
else. -/
theorem Memory.read_writeBytes {m : Memory} {j : Nat} {bs : List Byte} {o : Offset} (h : m.wf = true)
    (hj : j + bs.length ≤ 64) :
    (m.writeBytes j bs).read o =
      if j ≤ o.toNat ∧ o.toNat < j + bs.length then bs.getD (o.toNat - j) 0#8 else m.read o := by
  induction bs generalizing m j with
  | nil =>
    rw [if_neg (by simp)]
    rfl
  | cons b bs ih =>
    simp only [List.length_cons] at hj
    have hoff : (BitVec.ofNat 6 j).toNat = j := by
      rw [BitVec.toNat_ofNat]
      omega
    rw [Memory.writeBytes, ih (Memory.wf_write _ _ h) (by omega), Memory.read_write h]
    simp only [List.length_cons]
    by_cases hhead : o.toNat = j
    · have heq : BitVec.ofNat 6 j = o := BitVec.eq_of_toNat_eq (by omega)
      rw [if_neg (by omega), if_pos heq, if_pos (by omega), hhead, Nat.sub_self]
      rfl
    · have hne : ¬ BitVec.ofNat 6 j = o := fun e => hhead (by rw [← e, hoff])
      rw [if_neg hne]
      by_cases hin : j + 1 ≤ o.toNat ∧ o.toNat < j + 1 + bs.length
      · rw [if_pos hin, if_pos (by omega)]
        have : o.toNat - j = (o.toNat - (j + 1)) + 1 := by omega
        rw [this, List.getD_cons_succ]
      · rw [if_neg hin, if_neg (by omega)]

/-- FINISH's block: the old byte below the cursor, the pad byte at it, zeros after it. -/
theorem Memory.read_padded {m : Memory} {c o : Offset} (h : m.wf = true) :
    (m.padded c).read o = if o = c then 0x80#8 else if c.toNat < o.toNat then 0#8 else m.read o := by
  have hc := c.isLt
  rw [Memory.padded, Memory.read_writeBytes (Memory.wf_write _ _ h) (by simp; omega), Memory.read_write h]
  simp only [List.length_replicate]
  by_cases ho : o = c
  · subst ho
    rw [if_neg (by omega), if_pos rfl, if_pos rfl]
  · have hne : o.toNat ≠ c.toNat := fun e => ho (BitVec.eq_of_toNat_eq e)
    have ho' : ¬ c = o := fun e => ho e.symm
    have := o.isLt
    rw [if_neg ho, if_neg ho']
    by_cases hlt : c.toNat < o.toNat
    · rw [if_pos (by omega), if_pos hlt, List.getD_eq_getElem?_getD, List.getElem?_replicate]
      split <;> rfl
    · rw [if_neg (by omega), if_neg hlt]

/-- The length field: byte k of `be64 len` at offset 56 + k, the old byte below 56. -/
theorem Memory.read_withLengthField {m : Memory} {len : BitVec 64} {o : Offset} (h : m.wf = true) :
    (m.withLengthField len).read o =
      if 56 ≤ o.toNat then (be64 len).getD (o.toNat - 56) 0#8 else m.read o := by
  have hlen : (be64 len).length = 8 := rfl
  have := o.isLt
  rw [Memory.withLengthField, Memory.read_writeBytes h (by omega), hlen]
  by_cases ho : 56 ≤ o.toNat
  · rw [if_pos (by omega), if_pos ho]
  · rw [if_neg (by omega), if_neg ho]

end Sys2Proof.Machine
end

