-- ==== Sys2Proof/Laws/PerInstr.lean ====
section
/-!
SUPPORT. One statement about every command as syntax, with one lemma for each constructor: the word of
a command, under its row's mask, is its row's match value (spec/30_encoding.md R72).
-/

namespace Sys2Proof.Laws.EncodeInRow

/-- The mask of the command's row of spec/opcode_table.json. -/
def rowMask : Instr → Command
  | .init => 0xFFFF#16
  | .push _ => 0xFF00#16
  | .finish => 0xFFFF#16
  | .rddig _ => 0xF8FF#16
  | .rdstat => 0xFFFF#16
  | .rdlen _ => 0xFEFF#16

/-- The match value of the command's row of spec/opcode_table.json. -/
def rowMatch : Instr → Command
  | .init => 0x1000#16
  | .push _ => 0x2000#16
  | .finish => 0x3000#16
  | .rddig _ => 0x4000#16
  | .rdstat => 0x5000#16
  | .rdlen _ => 0x6000#16

/-- The word of a well-formed command lies in the command's row. -/
def Statement (i : Instr) : Prop := i.WellFormed → encode i &&& rowMask i = rowMatch i

theorem init : Statement .init := by unfold Statement; decide

theorem push (b : Byte) : Statement (.push b) := by
  intro _
  revert b
  decide

theorem finish : Statement .finish := by unfold Statement; decide

theorem rddig (idx : BitVec 4) : Statement (.rddig idx) := by
  unfold Statement
  revert idx
  decide

theorem rdstat : Statement .rdstat := by unfold Statement; decide

theorem rdlen (idx : BitVec 4) : Statement (.rdlen idx) := by
  unfold Statement
  revert idx
  decide

end Sys2Proof.Laws.EncodeInRow
end

