-- ==== Sys2Proof/Laws/State.lean ====
section
/-!
SUPPORT. What every named update does to every field of State: one lemma a field, true by unfolding the
update, so that no later proof unfolds a record update.
-/

namespace Sys2Proof.Machine

variable (s : State)


/-! ### setM -/

@[simp] theorem State.setM_H (m : Memory) : (s.setM m).H = s.H := rfl
@[simp] theorem State.setM_V (m : Memory) : (s.setM m).V = s.V := rfl
@[simp] theorem State.setM_W (m : Memory) : (s.setM m).W = s.W := rfl
@[simp] theorem State.setM_vwLoaded (m : Memory) : (s.setM m).vwLoaded = s.vwLoaded := rfl
@[simp] theorem State.setM_M (m : Memory) : (s.setM m).M = m := rfl
@[simp] theorem State.setM_cur (m : Memory) : (s.setM m).cur = s.cur := rfl
@[simp] theorem State.setM_L (m : Memory) : (s.setM m).L = s.L := rfl
@[simp] theorem State.setM_phase (m : Memory) : (s.setM m).phase = s.phase := rfl
@[simp] theorem State.setM_kind (m : Memory) : (s.setM m).kind = s.kind := rfl
@[simp] theorem State.setM_t (m : Memory) : (s.setM m).t = s.t := rfl
@[simp] theorem State.setM_err (m : Memory) : (s.setM m).err = s.err := rfl
@[simp] theorem State.setM_ecode (m : Memory) : (s.setM m).ecode = s.ecode := rfl
@[simp] theorem State.setM_lenOvf (m : Memory) : (s.setM m).lenOvf = s.lenOvf := rfl
@[simp] theorem State.setM_port (m : Memory) : (s.setM m).port = s.port := rfl
@[simp] theorem State.setM_pending (m : Memory) : (s.setM m).pending = s.pending := rfl
@[simp] theorem State.setM_resetIn (m : Memory) : (s.setM m).resetIn = s.resetIn := rfl
@[simp] theorem State.setM_responses (m : Memory) : (s.setM m).responses = s.responses := rfl
@[simp] theorem State.setM_faults (m : Memory) : (s.setM m).faults = s.faults := rfl
@[simp] theorem State.setM_noValueRead (m : Memory) : (s.setM m).noValueRead = s.noValueRead := rfl
@[simp] theorem State.setM_turn (m : Memory) : (s.setM m).turn = s.turn := rfl
@[simp] theorem State.setM_clock (m : Memory) : (s.setM m).clock = s.clock := rfl

/-! ### raise -/

@[simp] theorem State.raise_H (e : ProtocolError) : (s.raise e).H = s.H := rfl
@[simp] theorem State.raise_V (e : ProtocolError) : (s.raise e).V = s.V := rfl
@[simp] theorem State.raise_W (e : ProtocolError) : (s.raise e).W = s.W := rfl
@[simp] theorem State.raise_vwLoaded (e : ProtocolError) : (s.raise e).vwLoaded = s.vwLoaded := rfl
@[simp] theorem State.raise_M (e : ProtocolError) : (s.raise e).M = s.M := rfl
@[simp] theorem State.raise_cur (e : ProtocolError) : (s.raise e).cur = s.cur := rfl
@[simp] theorem State.raise_L (e : ProtocolError) : (s.raise e).L = s.L := rfl
@[simp] theorem State.raise_phase (e : ProtocolError) : (s.raise e).phase = s.phase := rfl
@[simp] theorem State.raise_kind (e : ProtocolError) : (s.raise e).kind = s.kind := rfl
@[simp] theorem State.raise_t (e : ProtocolError) : (s.raise e).t = s.t := rfl
@[simp] theorem State.raise_err (e : ProtocolError) : (s.raise e).err = true := rfl
@[simp] theorem State.raise_ecode (e : ProtocolError) :
    (s.raise e).ecode = if s.err then s.ecode else e.code := rfl
@[simp] theorem State.raise_lenOvf (e : ProtocolError) : (s.raise e).lenOvf = s.lenOvf := rfl
@[simp] theorem State.raise_port (e : ProtocolError) : (s.raise e).port = s.port := rfl
@[simp] theorem State.raise_pending (e : ProtocolError) : (s.raise e).pending = s.pending := rfl
@[simp] theorem State.raise_resetIn (e : ProtocolError) : (s.raise e).resetIn = s.resetIn := rfl
@[simp] theorem State.raise_responses (e : ProtocolError) : (s.raise e).responses = s.responses := rfl
@[simp] theorem State.raise_faults (e : ProtocolError) : (s.raise e).faults = s.faults ++ [e] := rfl
@[simp] theorem State.raise_noValueRead (e : ProtocolError) : (s.raise e).noValueRead = s.noValueRead := rfl
@[simp] theorem State.raise_turn (e : ProtocolError) : (s.raise e).turn = s.turn := rfl
@[simp] theorem State.raise_clock (e : ProtocolError) : (s.raise e).clock = s.clock := rfl

/-! ### respond -/

@[simp] theorem State.respond_H (r : Response) : (s.respond r).H = s.H := rfl
@[simp] theorem State.respond_V (r : Response) : (s.respond r).V = s.V := rfl
@[simp] theorem State.respond_W (r : Response) : (s.respond r).W = s.W := rfl
@[simp] theorem State.respond_vwLoaded (r : Response) : (s.respond r).vwLoaded = s.vwLoaded := rfl
@[simp] theorem State.respond_M (r : Response) : (s.respond r).M = s.M := rfl
@[simp] theorem State.respond_cur (r : Response) : (s.respond r).cur = s.cur := rfl
@[simp] theorem State.respond_L (r : Response) : (s.respond r).L = s.L := rfl
@[simp] theorem State.respond_phase (r : Response) : (s.respond r).phase = s.phase := rfl
@[simp] theorem State.respond_kind (r : Response) : (s.respond r).kind = s.kind := rfl
@[simp] theorem State.respond_t (r : Response) : (s.respond r).t = s.t := rfl
@[simp] theorem State.respond_err (r : Response) : (s.respond r).err = s.err := rfl
@[simp] theorem State.respond_ecode (r : Response) : (s.respond r).ecode = s.ecode := rfl
@[simp] theorem State.respond_lenOvf (r : Response) : (s.respond r).lenOvf = s.lenOvf := rfl
@[simp] theorem State.respond_port (r : Response) : (s.respond r).port = s.port := rfl
@[simp] theorem State.respond_pending (r : Response) : (s.respond r).pending = s.pending := rfl
@[simp] theorem State.respond_resetIn (r : Response) : (s.respond r).resetIn = s.resetIn := rfl
@[simp] theorem State.respond_responses (r : Response) :
    (s.respond r).responses = s.responses ++ [r] := rfl
@[simp] theorem State.respond_faults (r : Response) : (s.respond r).faults = s.faults := rfl
@[simp] theorem State.respond_noValueRead (r : Response) : (s.respond r).noValueRead = s.noValueRead := rfl
@[simp] theorem State.respond_turn (r : Response) : (s.respond r).turn = s.turn := rfl
@[simp] theorem State.respond_clock (r : Response) : (s.respond r).clock = s.clock := rfl

/-! ### initialise -/

@[simp] theorem State.initialise_H : s.initialise.H = H0 := rfl
@[simp] theorem State.initialise_V : s.initialise.V = s.V := rfl
@[simp] theorem State.initialise_W : s.initialise.W = s.W := rfl
@[simp] theorem State.initialise_vwLoaded : s.initialise.vwLoaded = s.vwLoaded := rfl
@[simp] theorem State.initialise_M : s.initialise.M = Memory.cleared := rfl
@[simp] theorem State.initialise_cur : s.initialise.cur = 0#6 := rfl
@[simp] theorem State.initialise_L : s.initialise.L = 0#64 := rfl
@[simp] theorem State.initialise_phase : s.initialise.phase = .accept := rfl
@[simp] theorem State.initialise_kind : s.initialise.kind = .data := rfl
@[simp] theorem State.initialise_t : s.initialise.t = 0 := rfl
@[simp] theorem State.initialise_err : s.initialise.err = false := rfl
@[simp] theorem State.initialise_ecode : s.initialise.ecode = 0#4 := rfl
@[simp] theorem State.initialise_lenOvf : s.initialise.lenOvf = false := rfl
@[simp] theorem State.initialise_port : s.initialise.port = s.port := rfl
@[simp] theorem State.initialise_pending : s.initialise.pending = s.pending := rfl
@[simp] theorem State.initialise_resetIn : s.initialise.resetIn = s.resetIn := rfl
@[simp] theorem State.initialise_responses : s.initialise.responses = s.responses := rfl
@[simp] theorem State.initialise_faults : s.initialise.faults = s.faults := rfl
@[simp] theorem State.initialise_noValueRead : s.initialise.noValueRead = s.noValueRead := rfl
@[simp] theorem State.initialise_turn : s.initialise.turn = s.turn := rfl
@[simp] theorem State.initialise_clock : s.initialise.clock = s.clock := rfl

/-! ### tick -/

@[simp] theorem State.tick_H : s.tick.H = s.H := rfl
@[simp] theorem State.tick_V : s.tick.V = s.V := rfl
@[simp] theorem State.tick_W : s.tick.W = s.W := rfl
@[simp] theorem State.tick_vwLoaded : s.tick.vwLoaded = s.vwLoaded := rfl
@[simp] theorem State.tick_M : s.tick.M = s.M := rfl
@[simp] theorem State.tick_cur : s.tick.cur = s.cur := rfl
@[simp] theorem State.tick_L : s.tick.L = s.L := rfl
@[simp] theorem State.tick_phase : s.tick.phase = s.phase := rfl
@[simp] theorem State.tick_kind : s.tick.kind = s.kind := rfl
@[simp] theorem State.tick_t : s.tick.t = s.t := rfl
@[simp] theorem State.tick_err : s.tick.err = s.err := rfl
@[simp] theorem State.tick_ecode : s.tick.ecode = s.ecode := rfl
@[simp] theorem State.tick_lenOvf : s.tick.lenOvf = s.lenOvf := rfl
@[simp] theorem State.tick_port : s.tick.port = s.port := rfl
@[simp] theorem State.tick_pending : s.tick.pending = (s.pending || s.headHeld) := rfl
@[simp] theorem State.tick_resetIn : s.tick.resetIn = s.resetIn.tail := rfl
@[simp] theorem State.tick_responses : s.tick.responses = s.responses := rfl
@[simp] theorem State.tick_faults : s.tick.faults = s.faults := rfl
@[simp] theorem State.tick_noValueRead : s.tick.noValueRead = s.noValueRead := rfl
@[simp] theorem State.tick_turn : s.tick.turn = Config.nextTurn s.clock := rfl
@[simp] theorem State.tick_clock : s.tick.clock = s.clock + 1 := rfl

/-! ### accept -/

@[simp] theorem State.accept_H : s.accept.H = s.H := rfl
@[simp] theorem State.accept_V : s.accept.V = s.V := rfl
@[simp] theorem State.accept_W : s.accept.W = s.W := rfl
@[simp] theorem State.accept_vwLoaded : s.accept.vwLoaded = s.vwLoaded := rfl
@[simp] theorem State.accept_M : s.accept.M = s.M := rfl
@[simp] theorem State.accept_cur : s.accept.cur = s.cur := rfl
@[simp] theorem State.accept_L : s.accept.L = s.L := rfl
@[simp] theorem State.accept_phase : s.accept.phase = s.phase := rfl
@[simp] theorem State.accept_kind : s.accept.kind = s.kind := rfl
@[simp] theorem State.accept_t : s.accept.t = s.t := rfl
@[simp] theorem State.accept_err : s.accept.err = s.err := rfl
@[simp] theorem State.accept_ecode : s.accept.ecode = s.ecode := rfl
@[simp] theorem State.accept_lenOvf : s.accept.lenOvf = s.lenOvf := rfl
@[simp] theorem State.accept_port : s.accept.port = s.port.tail := rfl
@[simp] theorem State.accept_pending : s.accept.pending = false := rfl
@[simp] theorem State.accept_resetIn : s.accept.resetIn = s.resetIn.tail := rfl
@[simp] theorem State.accept_responses : s.accept.responses = s.responses := rfl
@[simp] theorem State.accept_faults : s.accept.faults = s.faults := rfl
@[simp] theorem State.accept_noValueRead : s.accept.noValueRead = s.noValueRead := rfl
@[simp] theorem State.accept_turn : s.accept.turn = Config.nextTurn s.clock := rfl
@[simp] theorem State.accept_clock : s.accept.clock = s.clock + 1 := rfl

/-! ### idle -/

@[simp] theorem State.idle_H : s.idle.H = s.H := rfl
@[simp] theorem State.idle_V : s.idle.V = s.V := rfl
@[simp] theorem State.idle_W : s.idle.W = s.W := rfl
@[simp] theorem State.idle_vwLoaded : s.idle.vwLoaded = s.vwLoaded := rfl
@[simp] theorem State.idle_M : s.idle.M = s.M := rfl
@[simp] theorem State.idle_cur : s.idle.cur = s.cur := rfl
@[simp] theorem State.idle_L : s.idle.L = s.L := rfl
@[simp] theorem State.idle_phase : s.idle.phase = s.phase := rfl
@[simp] theorem State.idle_kind : s.idle.kind = s.kind := rfl
@[simp] theorem State.idle_t : s.idle.t = s.t := rfl
@[simp] theorem State.idle_err : s.idle.err = s.err := rfl
@[simp] theorem State.idle_ecode : s.idle.ecode = s.ecode := rfl
@[simp] theorem State.idle_lenOvf : s.idle.lenOvf = s.lenOvf := rfl
@[simp] theorem State.idle_port : s.idle.port = s.port := rfl
@[simp] theorem State.idle_pending : s.idle.pending = s.pending := rfl
@[simp] theorem State.idle_resetIn : s.idle.resetIn = s.resetIn.tail := rfl
@[simp] theorem State.idle_responses : s.idle.responses = s.responses := rfl
@[simp] theorem State.idle_faults : s.idle.faults = s.faults := rfl
@[simp] theorem State.idle_noValueRead : s.idle.noValueRead = s.noValueRead := rfl
@[simp] theorem State.idle_turn : s.idle.turn = s.turn := rfl
@[simp] theorem State.idle_clock : s.idle.clock = s.clock := rfl

/-! ### load -/

@[simp] theorem State.load_H (k : Kind) : (s.load k).H = s.H := rfl
@[simp] theorem State.load_V (k : Kind) : (s.load k).V = s.H := rfl
@[simp] theorem State.load_W (k : Kind) : (s.load k).W = expand (blockWords s.M.read) := rfl
@[simp] theorem State.load_vwLoaded (k : Kind) : (s.load k).vwLoaded = true := rfl
@[simp] theorem State.load_M (k : Kind) : (s.load k).M = Memory.cleared := rfl
@[simp] theorem State.load_cur (k : Kind) : (s.load k).cur = 0#6 := rfl
@[simp] theorem State.load_L (k : Kind) : (s.load k).L = s.L := rfl
@[simp] theorem State.load_phase (k : Kind) : (s.load k).phase = .busy := rfl
@[simp] theorem State.load_kind (k : Kind) : (s.load k).kind = k := rfl
@[simp] theorem State.load_t (k : Kind) : (s.load k).t = 0 := rfl
@[simp] theorem State.load_err (k : Kind) : (s.load k).err = s.err := rfl
@[simp] theorem State.load_ecode (k : Kind) : (s.load k).ecode = s.ecode := rfl
@[simp] theorem State.load_lenOvf (k : Kind) : (s.load k).lenOvf = s.lenOvf := rfl
@[simp] theorem State.load_port (k : Kind) : (s.load k).port = s.port := rfl
@[simp] theorem State.load_pending (k : Kind) : (s.load k).pending = s.pending := rfl
@[simp] theorem State.load_resetIn (k : Kind) : (s.load k).resetIn = s.resetIn := rfl
@[simp] theorem State.load_responses (k : Kind) : (s.load k).responses = s.responses := rfl
@[simp] theorem State.load_faults (k : Kind) : (s.load k).faults = s.faults := rfl
@[simp] theorem State.load_noValueRead (k : Kind) : (s.load k).noValueRead = s.noValueRead := rfl
@[simp] theorem State.load_turn (k : Kind) : (s.load k).turn = s.turn := rfl
@[simp] theorem State.load_clock (k : Kind) : (s.load k).clock = s.clock := rfl

/-! ### settled -/

@[simp] theorem State.settled_H : s.settled.H = s.H := rfl
@[simp] theorem State.settled_V : s.settled.V = if s.vwLoaded then s.V else Config.unspecifiedV s.clock := rfl
@[simp] theorem State.settled_W : s.settled.W = if s.vwLoaded then s.W else Config.unspecifiedW s.clock := rfl
@[simp] theorem State.settled_vwLoaded : s.settled.vwLoaded = true := rfl
@[simp] theorem State.settled_M : s.settled.M = s.M := rfl
@[simp] theorem State.settled_cur : s.settled.cur = s.cur := rfl
@[simp] theorem State.settled_L : s.settled.L = s.L := rfl
@[simp] theorem State.settled_phase : s.settled.phase = s.phase := rfl
@[simp] theorem State.settled_kind : s.settled.kind = s.kind := rfl
@[simp] theorem State.settled_t : s.settled.t = s.t := rfl
@[simp] theorem State.settled_err : s.settled.err = s.err := rfl
@[simp] theorem State.settled_ecode : s.settled.ecode = s.ecode := rfl
@[simp] theorem State.settled_lenOvf : s.settled.lenOvf = s.lenOvf := rfl
@[simp] theorem State.settled_port : s.settled.port = s.port := rfl
@[simp] theorem State.settled_pending : s.settled.pending = s.pending := rfl
@[simp] theorem State.settled_resetIn : s.settled.resetIn = s.resetIn := rfl
@[simp] theorem State.settled_responses : s.settled.responses = s.responses := rfl
@[simp] theorem State.settled_faults : s.settled.faults = s.faults := rfl
@[simp] theorem State.settled_noValueRead : s.settled.noValueRead = (s.noValueRead || !s.vwLoaded) := rfl
@[simp] theorem State.settled_turn : s.settled.turn = s.turn := rfl
@[simp] theorem State.settled_clock : s.settled.clock = s.clock := rfl

/-! ### roundStep -/

@[simp] theorem State.roundStep_H (i : Fin 64) : (s.roundStep i).H = s.H := rfl
@[simp] theorem State.roundStep_V (i : Fin 64) : (s.roundStep i).V = compressRound s.V K[i] s.W[i] := rfl
@[simp] theorem State.roundStep_W (i : Fin 64) : (s.roundStep i).W = s.W := rfl
@[simp] theorem State.roundStep_vwLoaded (i : Fin 64) : (s.roundStep i).vwLoaded = s.vwLoaded := rfl
@[simp] theorem State.roundStep_M (i : Fin 64) : (s.roundStep i).M = s.M := rfl
@[simp] theorem State.roundStep_cur (i : Fin 64) : (s.roundStep i).cur = s.cur := rfl
@[simp] theorem State.roundStep_L (i : Fin 64) : (s.roundStep i).L = s.L := rfl
@[simp] theorem State.roundStep_phase (i : Fin 64) : (s.roundStep i).phase = s.phase := rfl
@[simp] theorem State.roundStep_kind (i : Fin 64) : (s.roundStep i).kind = s.kind := rfl
@[simp] theorem State.roundStep_t (i : Fin 64) : (s.roundStep i).t = i.succ := rfl
@[simp] theorem State.roundStep_err (i : Fin 64) : (s.roundStep i).err = s.err := rfl
@[simp] theorem State.roundStep_ecode (i : Fin 64) : (s.roundStep i).ecode = s.ecode := rfl
@[simp] theorem State.roundStep_lenOvf (i : Fin 64) : (s.roundStep i).lenOvf = s.lenOvf := rfl
@[simp] theorem State.roundStep_port (i : Fin 64) : (s.roundStep i).port = s.port := rfl
@[simp] theorem State.roundStep_pending (i : Fin 64) : (s.roundStep i).pending = s.pending := rfl
@[simp] theorem State.roundStep_resetIn (i : Fin 64) : (s.roundStep i).resetIn = s.resetIn := rfl
@[simp] theorem State.roundStep_responses (i : Fin 64) : (s.roundStep i).responses = s.responses := rfl
@[simp] theorem State.roundStep_faults (i : Fin 64) : (s.roundStep i).faults = s.faults := rfl
@[simp] theorem State.roundStep_noValueRead (i : Fin 64) : (s.roundStep i).noValueRead = s.noValueRead := rfl
@[simp] theorem State.roundStep_turn (i : Fin 64) : (s.roundStep i).turn = s.turn := rfl
@[simp] theorem State.roundStep_clock (i : Fin 64) : (s.roundStep i).clock = s.clock := rfl

/-! ### addToHash -/

@[simp] theorem State.addToHash_H : s.addToHash.H = addState s.H s.V := rfl
@[simp] theorem State.addToHash_V : s.addToHash.V = s.V := rfl
@[simp] theorem State.addToHash_W : s.addToHash.W = s.W := rfl
@[simp] theorem State.addToHash_vwLoaded : s.addToHash.vwLoaded = s.vwLoaded := rfl
@[simp] theorem State.addToHash_M : s.addToHash.M = s.M := rfl
@[simp] theorem State.addToHash_cur : s.addToHash.cur = s.cur := rfl
@[simp] theorem State.addToHash_L : s.addToHash.L = s.L := rfl
@[simp] theorem State.addToHash_phase : s.addToHash.phase = s.phase := rfl
@[simp] theorem State.addToHash_kind : s.addToHash.kind = s.kind := rfl
@[simp] theorem State.addToHash_t : s.addToHash.t = s.t := rfl
@[simp] theorem State.addToHash_err : s.addToHash.err = s.err := rfl
@[simp] theorem State.addToHash_ecode : s.addToHash.ecode = s.ecode := rfl
@[simp] theorem State.addToHash_lenOvf : s.addToHash.lenOvf = s.lenOvf := rfl
@[simp] theorem State.addToHash_port : s.addToHash.port = s.port := rfl
@[simp] theorem State.addToHash_pending : s.addToHash.pending = s.pending := rfl
@[simp] theorem State.addToHash_resetIn : s.addToHash.resetIn = s.resetIn := rfl
@[simp] theorem State.addToHash_responses : s.addToHash.responses = s.responses := rfl
@[simp] theorem State.addToHash_faults : s.addToHash.faults = s.faults := rfl
@[simp] theorem State.addToHash_noValueRead : s.addToHash.noValueRead = s.noValueRead := rfl
@[simp] theorem State.addToHash_turn : s.addToHash.turn = s.turn := rfl
@[simp] theorem State.addToHash_clock : s.addToHash.clock = s.clock := rfl

/-! ### setPhase -/

@[simp] theorem State.setPhase_H (p : Phase) : (s.setPhase p).H = s.H := rfl
@[simp] theorem State.setPhase_V (p : Phase) : (s.setPhase p).V = s.V := rfl
@[simp] theorem State.setPhase_W (p : Phase) : (s.setPhase p).W = s.W := rfl
@[simp] theorem State.setPhase_vwLoaded (p : Phase) : (s.setPhase p).vwLoaded = s.vwLoaded := rfl
@[simp] theorem State.setPhase_M (p : Phase) : (s.setPhase p).M = s.M := rfl
@[simp] theorem State.setPhase_cur (p : Phase) : (s.setPhase p).cur = s.cur := rfl
@[simp] theorem State.setPhase_L (p : Phase) : (s.setPhase p).L = s.L := rfl
@[simp] theorem State.setPhase_phase (p : Phase) : (s.setPhase p).phase = p := rfl
@[simp] theorem State.setPhase_kind (p : Phase) : (s.setPhase p).kind = s.kind := rfl
@[simp] theorem State.setPhase_t (p : Phase) : (s.setPhase p).t = s.t := rfl
@[simp] theorem State.setPhase_err (p : Phase) : (s.setPhase p).err = s.err := rfl
@[simp] theorem State.setPhase_ecode (p : Phase) : (s.setPhase p).ecode = s.ecode := rfl
@[simp] theorem State.setPhase_lenOvf (p : Phase) : (s.setPhase p).lenOvf = s.lenOvf := rfl
@[simp] theorem State.setPhase_port (p : Phase) : (s.setPhase p).port = s.port := rfl
@[simp] theorem State.setPhase_pending (p : Phase) : (s.setPhase p).pending = s.pending := rfl
@[simp] theorem State.setPhase_resetIn (p : Phase) : (s.setPhase p).resetIn = s.resetIn := rfl
@[simp] theorem State.setPhase_responses (p : Phase) : (s.setPhase p).responses = s.responses := rfl
@[simp] theorem State.setPhase_faults (p : Phase) : (s.setPhase p).faults = s.faults := rfl
@[simp] theorem State.setPhase_noValueRead (p : Phase) : (s.setPhase p).noValueRead = s.noValueRead := rfl
@[simp] theorem State.setPhase_turn (p : Phase) : (s.setPhase p).turn = s.turn := rfl
@[simp] theorem State.setPhase_clock (p : Phase) : (s.setPhase p).clock = s.clock := rfl

/-! ### appendByte -/

@[simp] theorem State.appendByte_H (b : Byte) : (s.appendByte b).H = s.H := rfl
@[simp] theorem State.appendByte_V (b : Byte) : (s.appendByte b).V = s.V := rfl
@[simp] theorem State.appendByte_W (b : Byte) : (s.appendByte b).W = s.W := rfl
@[simp] theorem State.appendByte_vwLoaded (b : Byte) : (s.appendByte b).vwLoaded = s.vwLoaded := rfl
@[simp] theorem State.appendByte_M (b : Byte) : (s.appendByte b).M = s.M.write s.cur b := rfl
@[simp] theorem State.appendByte_cur (b : Byte) : (s.appendByte b).cur = s.cur := rfl
@[simp] theorem State.appendByte_L (b : Byte) : (s.appendByte b).L = lengthNext s.L := rfl
@[simp] theorem State.appendByte_phase (b : Byte) : (s.appendByte b).phase = s.phase := rfl
@[simp] theorem State.appendByte_kind (b : Byte) : (s.appendByte b).kind = s.kind := rfl
@[simp] theorem State.appendByte_t (b : Byte) : (s.appendByte b).t = s.t := rfl
@[simp] theorem State.appendByte_err (b : Byte) : (s.appendByte b).err = s.err := rfl
@[simp] theorem State.appendByte_ecode (b : Byte) : (s.appendByte b).ecode = s.ecode := rfl
@[simp] theorem State.appendByte_lenOvf (b : Byte) :
    (s.appendByte b).lenOvf = (s.lenOvf || lengthOverflows s.L) := rfl
@[simp] theorem State.appendByte_port (b : Byte) : (s.appendByte b).port = s.port := rfl
@[simp] theorem State.appendByte_pending (b : Byte) : (s.appendByte b).pending = s.pending := rfl
@[simp] theorem State.appendByte_resetIn (b : Byte) : (s.appendByte b).resetIn = s.resetIn := rfl
@[simp] theorem State.appendByte_responses (b : Byte) : (s.appendByte b).responses = s.responses := rfl
@[simp] theorem State.appendByte_faults (b : Byte) : (s.appendByte b).faults = s.faults := rfl
@[simp] theorem State.appendByte_noValueRead (b : Byte) : (s.appendByte b).noValueRead = s.noValueRead := rfl
@[simp] theorem State.appendByte_turn (b : Byte) : (s.appendByte b).turn = s.turn := rfl
@[simp] theorem State.appendByte_clock (b : Byte) : (s.appendByte b).clock = s.clock := rfl

/-! ### advanceCursor -/

@[simp] theorem State.advanceCursor_H : s.advanceCursor.H = s.H := rfl
@[simp] theorem State.advanceCursor_V : s.advanceCursor.V = s.V := rfl
@[simp] theorem State.advanceCursor_W : s.advanceCursor.W = s.W := rfl
@[simp] theorem State.advanceCursor_vwLoaded : s.advanceCursor.vwLoaded = s.vwLoaded := rfl
@[simp] theorem State.advanceCursor_M : s.advanceCursor.M = s.M := rfl
@[simp] theorem State.advanceCursor_cur : s.advanceCursor.cur = s.cur + 1#6 := rfl
@[simp] theorem State.advanceCursor_L : s.advanceCursor.L = s.L := rfl
@[simp] theorem State.advanceCursor_phase : s.advanceCursor.phase = s.phase := rfl
@[simp] theorem State.advanceCursor_kind : s.advanceCursor.kind = s.kind := rfl
@[simp] theorem State.advanceCursor_t : s.advanceCursor.t = s.t := rfl
@[simp] theorem State.advanceCursor_err : s.advanceCursor.err = s.err := rfl
@[simp] theorem State.advanceCursor_ecode : s.advanceCursor.ecode = s.ecode := rfl
@[simp] theorem State.advanceCursor_lenOvf : s.advanceCursor.lenOvf = s.lenOvf := rfl
@[simp] theorem State.advanceCursor_port : s.advanceCursor.port = s.port := rfl
@[simp] theorem State.advanceCursor_pending : s.advanceCursor.pending = s.pending := rfl
@[simp] theorem State.advanceCursor_resetIn : s.advanceCursor.resetIn = s.resetIn := rfl
@[simp] theorem State.advanceCursor_responses : s.advanceCursor.responses = s.responses := rfl
@[simp] theorem State.advanceCursor_faults : s.advanceCursor.faults = s.faults := rfl
@[simp] theorem State.advanceCursor_noValueRead : s.advanceCursor.noValueRead = s.noValueRead := rfl
@[simp] theorem State.advanceCursor_turn : s.advanceCursor.turn = s.turn := rfl
@[simp] theorem State.advanceCursor_clock : s.advanceCursor.clock = s.clock := rfl

/-! ### takeReset -/

@[simp] theorem State.takeReset_H : s.takeReset.H = H0 := rfl
@[simp] theorem State.takeReset_V : s.takeReset.V = Vector.replicate 8 0#32 := rfl
@[simp] theorem State.takeReset_W : s.takeReset.W = Vector.replicate 64 0#32 := rfl
@[simp] theorem State.takeReset_vwLoaded : s.takeReset.vwLoaded = false := rfl
@[simp] theorem State.takeReset_M : s.takeReset.M = [] := rfl
@[simp] theorem State.takeReset_cur : s.takeReset.cur = 0#6 := rfl
@[simp] theorem State.takeReset_L : s.takeReset.L = 0#64 := rfl
@[simp] theorem State.takeReset_phase : s.takeReset.phase = .accept := rfl
@[simp] theorem State.takeReset_kind : s.takeReset.kind = .data := rfl
@[simp] theorem State.takeReset_t : s.takeReset.t = 0 := rfl
@[simp] theorem State.takeReset_err : s.takeReset.err = false := rfl
@[simp] theorem State.takeReset_ecode : s.takeReset.ecode = 0#4 := rfl
@[simp] theorem State.takeReset_lenOvf : s.takeReset.lenOvf = false := rfl
@[simp] theorem State.takeReset_port : s.takeReset.port = s.portAfterReset := rfl
@[simp] theorem State.takeReset_pending : s.takeReset.pending = false := rfl
@[simp] theorem State.takeReset_resetIn : s.takeReset.resetIn = s.resetIn.tail := rfl
@[simp] theorem State.takeReset_responses : s.takeReset.responses = s.responses := rfl
@[simp] theorem State.takeReset_faults : s.takeReset.faults = s.faults := rfl
@[simp] theorem State.takeReset_noValueRead : s.takeReset.noValueRead = s.noValueRead := rfl
@[simp] theorem State.takeReset_turn : s.takeReset.turn = Config.nextTurn s.clock := rfl
@[simp] theorem State.takeReset_clock : s.takeReset.clock = s.clock + 1 := rfl

/-! ### withFetchWord -/

@[simp] theorem State.withFetchWord_H (nbits w : Nat) : (s.withFetchWord nbits w).H = s.H := rfl
@[simp] theorem State.withFetchWord_V (nbits w : Nat) : (s.withFetchWord nbits w).V = s.V := rfl
@[simp] theorem State.withFetchWord_W (nbits w : Nat) : (s.withFetchWord nbits w).W = s.W := rfl
@[simp] theorem State.withFetchWord_vwLoaded (nbits w : Nat) :
    (s.withFetchWord nbits w).vwLoaded = s.vwLoaded := rfl
@[simp] theorem State.withFetchWord_M (nbits w : Nat) : (s.withFetchWord nbits w).M = s.M := rfl
@[simp] theorem State.withFetchWord_cur (nbits w : Nat) : (s.withFetchWord nbits w).cur = s.cur := rfl
@[simp] theorem State.withFetchWord_L (nbits w : Nat) : (s.withFetchWord nbits w).L = s.L := rfl
@[simp] theorem State.withFetchWord_phase (nbits w : Nat) :
    (s.withFetchWord nbits w).phase = s.phase := rfl
@[simp] theorem State.withFetchWord_kind (nbits w : Nat) : (s.withFetchWord nbits w).kind = s.kind := rfl
@[simp] theorem State.withFetchWord_t (nbits w : Nat) : (s.withFetchWord nbits w).t = s.t := rfl
@[simp] theorem State.withFetchWord_err (nbits w : Nat) : (s.withFetchWord nbits w).err = s.err := rfl
@[simp] theorem State.withFetchWord_ecode (nbits w : Nat) :
    (s.withFetchWord nbits w).ecode = s.ecode := rfl
@[simp] theorem State.withFetchWord_lenOvf (nbits w : Nat) :
    (s.withFetchWord nbits w).lenOvf = s.lenOvf := rfl
@[simp] theorem State.withFetchWord_port (nbits w : Nat) :
    (s.withFetchWord nbits w).port = tableWord nbits w :: s.port := rfl
@[simp] theorem State.withFetchWord_pending (nbits w : Nat) : (s.withFetchWord nbits w).pending = false := rfl
@[simp] theorem State.withFetchWord_resetIn (nbits w : Nat) :
    (s.withFetchWord nbits w).resetIn = false :: s.resetIn := rfl
@[simp] theorem State.withFetchWord_responses (nbits w : Nat) :
    (s.withFetchWord nbits w).responses = s.responses := rfl
@[simp] theorem State.withFetchWord_faults (nbits w : Nat) :
    (s.withFetchWord nbits w).faults = s.faults := rfl
@[simp] theorem State.withFetchWord_noValueRead (nbits w : Nat) :
    (s.withFetchWord nbits w).noValueRead = s.noValueRead := rfl
@[simp] theorem State.withFetchWord_turn (nbits w : Nat) : (s.withFetchWord nbits w).turn = .host := rfl
@[simp] theorem State.withFetchWord_clock (nbits w : Nat) :
    (s.withFetchWord nbits w).clock = s.clock := rfl

end Sys2Proof.Machine
end

