-- ==== Sys2Proof/Laws/Steps.lean ====
section
/-!
SUPPORT. What each shared operation and each step can do, said once: the cases of the final-add step, of
the core's step, of each command, of the choice of the next move, and of the machine's step.
-/

namespace Sys2Proof.Machine

variable {s t : State}

/-! ### The core's step -/

theorem State.finalAdd_data (h : s.kind = .data) : s.finalAdd = s.addToHash.setPhase .accept := by
  simp only [State.finalAdd, h]

theorem State.finalAdd_pad1 (h : s.kind = .pad1) :
    s.finalAdd = (s.addToHash.setM (s.M.withLengthField s.L)).load .final := by
  simp only [State.finalAdd, h]

theorem State.finalAdd_final (h : s.kind = .final) : s.finalAdd = s.addToHash.setPhase .done := by
  simp only [State.finalAdd, h]

theorem coreStep_idle (h : s.phase ≠ .busy) : coreStep s = .next s := by
  simp only [coreStep, if_neg h]

/-- Where V and W hold a value, making them ready to be read changes nothing. -/
theorem State.settled_of_loaded (h : s.vwLoaded = true) : s.settled = s := by
  cases s
  simp only at h
  simp only [State.settled, h, if_true, Bool.not_true, Bool.or_false]

theorem coreStep_round (hp : s.phase = .busy) (ht : s.t.val < 64) :
    coreStep s = .next (s.settled.roundStep ⟨s.t.val, ht⟩) := by
  simp only [coreStep, if_pos hp, dif_pos ht]

theorem coreStep_final (hp : s.phase = .busy) (ht : s.t.val = 64) :
    coreStep s = .next s.settled.finalAdd := by
  have : ¬ s.t.val < 64 := by omega
  simp only [coreStep, if_pos hp, dif_neg this]

/-- The round step over V and W that hold a value. -/
theorem coreStep_round_loaded (hp : s.phase = .busy) (hv : s.vwLoaded = true) (ht : s.t.val < 64) :
    coreStep s = .next (s.roundStep ⟨s.t.val, ht⟩) := by
  rw [coreStep_round hp ht, State.settled_of_loaded hv]

/-- The final-add step over a V that holds a value. -/
theorem coreStep_final_loaded (hp : s.phase = .busy) (hv : s.vwLoaded = true) (ht : s.t.val = 64) :
    coreStep s = .next s.finalAdd := by
  rw [coreStep_final hp ht, State.settled_of_loaded hv]

/-- The core's step: nothing outside BUSY, else the round step or the final-add step over V and W as
they stand. -/
theorem coreStep_cases (h : coreStep s = .next t) :
    (s.phase ≠ .busy ∧ t = s) ∨
    (s.phase = .busy ∧ ∃ ht : s.t.val < 64, t = s.settled.roundStep ⟨s.t.val, ht⟩) ∨
    (s.phase = .busy ∧ s.t.val = 64 ∧ t = s.settled.finalAdd) := by
  by_cases hp : s.phase = .busy
  · by_cases ht : s.t.val < 64
    · rw [coreStep_round hp ht] at h
      cases h
      exact .inr (.inl ⟨hp, ht, rfl⟩)
    · have ht' : s.t.val = 64 := by omega
      rw [coreStep_final hp ht'] at h
      cases h
      exact .inr (.inr ⟨hp, ht', rfl⟩)
  · rw [coreStep_idle hp] at h
    cases h
    exact .inl ⟨hp, rfl⟩

/-- The core's step never stops. -/
theorem coreStep_next (s : State) : ∃ t, coreStep s = .next t := by
  by_cases hp : s.phase = .busy
  · by_cases ht : s.t.val < 64
    · exact ⟨_, coreStep_round hp ht⟩
    · exact ⟨_, coreStep_final hp (by omega)⟩
  · exact ⟨_, coreStep_idle hp⟩

/-- The fields that no final-add step writes. -/
theorem State.finalAdd_frame (s : State) :
    s.finalAdd.L = s.L ∧ s.finalAdd.err = s.err ∧ s.finalAdd.ecode = s.ecode ∧
    s.finalAdd.lenOvf = s.lenOvf ∧ s.finalAdd.faults = s.faults ∧
    s.finalAdd.noValueRead = s.noValueRead ∧ s.finalAdd.responses = s.responses ∧
    s.finalAdd.port = s.port ∧ s.finalAdd.pending = s.pending ∧ s.finalAdd.resetIn = s.resetIn ∧
    s.finalAdd.turn = s.turn ∧ s.finalAdd.clock = s.clock := by
  cases hk : s.kind with
  | data => rw [State.finalAdd_data hk]; simp
  | pad1 => rw [State.finalAdd_pad1 hk]; simp
  | final => rw [State.finalAdd_final hk]; simp

/-- What no core step writes: the bit length, the flags, the inputs and the responses. H is written by
the final-add step alone, and a read of V and W with no value is recorded. -/
theorem coreStep_frame (h : coreStep s = .next t) :
    t.L = s.L ∧ t.err = s.err ∧ t.ecode = s.ecode ∧ t.lenOvf = s.lenOvf ∧ t.faults = s.faults ∧
    t.responses = s.responses ∧ t.port = s.port ∧ t.pending = s.pending ∧ t.resetIn = s.resetIn ∧
    t.turn = s.turn ∧ t.clock = s.clock ∧ (s.phase ≠ .busy ∨ s.t.val ≠ 64 → t.H = s.H) ∧
    (t.noValueRead = true ↔ s.noValueRead = true ∨ (s.phase = .busy ∧ s.vwLoaded = false)) := by
  rcases coreStep_cases h with ⟨hp, rfl⟩ | ⟨hp, _, rfl⟩ | ⟨hp, ht, rfl⟩
  · simp [hp]
  · simp [hp]
  · have hf := State.finalAdd_frame s.settled
    simp only [State.settled_L, State.settled_err, State.settled_ecode, State.settled_lenOvf,
      State.settled_faults, State.settled_noValueRead, State.settled_responses, State.settled_port,
      State.settled_pending, State.settled_resetIn, State.settled_turn, State.settled_clock] at hf
    simp [hp, ht, hf]

/-- Core steps in a row, taken apart. -/
theorem coreSteps_add {m n : Nat} (h : coreSteps m s = .next t) :
    coreSteps (m + n) s = coreSteps n t := by
  induction m generalizing s with
  | zero => cases h; rw [Nat.zero_add]
  | succ m ih =>
    rw [Nat.succ_add]
    simp only [coreSteps] at h ⊢
    split at h
    · next => exact ih h
    · cases h
    · cases h

/-! ### The commands -/

/-- PUSH, phase by phase. -/
theorem execPush_cases {b : Byte} (h : execPush b s = .next t) :
    (s.phase = .busy ∧ t = s) ∨ (s.phase = .done ∧ t = s.raise .pushInDone) ∨
    (s.phase = .accept ∧ s.cur = 63#6 ∧ t = (s.appendByte b).load .data) ∨
    (s.phase = .accept ∧ s.cur ≠ 63#6 ∧ t = (s.appendByte b).advanceCursor) := by
  unfold execPush at h
  split at h
  · next hp => cases h; exact .inl ⟨hp, rfl⟩
  · next hp => cases h; exact .inr (.inl ⟨hp, rfl⟩)
  · next hp =>
    split at h
    · next hc => cases h; exact .inr (.inr (.inl ⟨hp, hc, rfl⟩))
    · next hc => cases h; exact .inr (.inr (.inr ⟨hp, hc, rfl⟩))

/-- FINISH, phase by phase. -/
theorem execFinish_cases (h : execFinish s = .next t) :
    (s.phase = .busy ∧ t = s) ∨ (s.phase = .done ∧ t = s.raise .finishInDone) ∨
    (s.phase = .accept ∧ s.cur.toNat ≤ 55 ∧
      t = (s.setM ((s.M.padded s.cur).withLengthField s.L)).load .final) ∨
    (s.phase = .accept ∧ 56 ≤ s.cur.toNat ∧ t = (s.setM (s.M.padded s.cur)).load .pad1) := by
  unfold execFinish at h
  split at h
  · next hp => cases h; exact .inl ⟨hp, rfl⟩
  · next hp => cases h; exact .inr (.inl ⟨hp, rfl⟩)
  · next hp =>
    split at h
    · next hc => cases h; exact .inr (.inr (.inl ⟨hp, hc, rfl⟩))
    · next hc => cases h; exact .inr (.inr (.inr ⟨hp, by omega, rfl⟩))

/-- RDDIG, phase by phase. -/
theorem execRddig_cases {idx : BitVec 4} (h : execRddig idx s = .next t) :
    (rddigIllegal idx = true ∧ t = s.raise .illegalCmd) ∨
    (rddigIllegal idx = false ∧ s.phase = .busy ∧ t = s) ∨
    (rddigIllegal idx = false ∧ s.phase = .done ∧ t = s.respond (.data s.H[rddigIndex idx])) ∨
    (rddigIllegal idx = false ∧ s.phase = .accept ∧ t = (s.raise .rddigNotDone).respond .noValue) := by
  unfold execRddig execIllegal at h
  split at h
  · next hi => cases h; exact .inl ⟨hi, rfl⟩
  · next hi =>
    have hi' : rddigIllegal idx = false := by simpa using hi
    split at h
    · next hp => cases h; exact .inr (.inl ⟨hi', hp, rfl⟩)
    · next hp => cases h; exact .inr (.inr (.inl ⟨hi', hp, rfl⟩))
    · next hp => cases h; exact .inr (.inr (.inr ⟨hi', hp, rfl⟩))

/-- RDLEN, phase by phase. -/
theorem execRdlen_cases {idx : BitVec 4} (h : execRdlen idx s = .next t) :
    (rdlenIllegal idx = true ∧ t = s.raise .illegalCmd) ∨
    (rdlenIllegal idx = false ∧ s.phase = .busy ∧ t = s) ∨
    (rdlenIllegal idx = false ∧ s.phase ≠ .busy ∧
      t = s.respond (.data (lengthHalf (rdlenLow idx) s.L))) := by
  unfold execRdlen execIllegal at h
  split at h
  · next hi => cases h; exact .inl ⟨hi, rfl⟩
  · next hi =>
    have hi' : rdlenIllegal idx = false := by simpa using hi
    split at h
    · next hp => cases h; exact .inr (.inl ⟨hi', hp, rfl⟩)
    · next hp => cases h; exact .inr (.inr ⟨hi', by simp [hp], rfl⟩)
    · next hp => cases h; exact .inr (.inr ⟨hi', by simp [hp], rfl⟩)

/-- Every command answers a next state in every state: none stops. -/
theorem exec_next (i : Instr) (s : State) : ∃ t, exec i s = .next t := by
  cases i with
  | init => exact ⟨_, rfl⟩
  | push b =>
    simp only [exec, execPush]
    split
    · exact ⟨_, rfl⟩
    · exact ⟨_, rfl⟩
    · split <;> exact ⟨_, rfl⟩
  | finish =>
    simp only [exec, execFinish]
    split
    · exact ⟨_, rfl⟩
    · exact ⟨_, rfl⟩
    · split <;> exact ⟨_, rfl⟩
  | rddig idx =>
    simp only [exec, execRddig, execIllegal]
    split
    · exact ⟨_, rfl⟩
    · split <;> exact ⟨_, rfl⟩
  | rdstat => exact ⟨_, rfl⟩
  | rdlen idx =>
    simp only [exec, execRdlen, execIllegal]
    split
    · exact ⟨_, rfl⟩
    · split <;> exact ⟨_, rfl⟩

/-- What a command does, over all commands: INIT; nothing; an accepted PUSH; an accepted FINISH; a
protocol error; a response; or the refused RDDIG, which is both. -/
theorem exec_cases {i : Instr} (h : exec i s = .next t) :
    (i = .init ∧ t = s.initialise) ∨ t = s ∨
    (∃ b, i = .push b ∧ s.phase = .accept ∧ s.cur = 63#6 ∧ t = (s.appendByte b).load .data) ∨
    (∃ b, i = .push b ∧ s.phase = .accept ∧ s.cur ≠ 63#6 ∧ t = (s.appendByte b).advanceCursor) ∨
    (i = .finish ∧ s.phase = .accept ∧ ∃ k m, k ≠ .data ∧ t = (s.setM m).load k) ∨
    (∃ e, t = s.raise e) ∨ (∃ r, t = s.respond r) ∨ (∃ e r, t = (s.raise e).respond r) := by
  cases i with
  | init => cases h; exact .inl ⟨rfl, rfl⟩
  | push b =>
    rcases execPush_cases h with ⟨_, rfl⟩ | ⟨_, rfl⟩ | ⟨hp, hc, rfl⟩ | ⟨hp, hc, rfl⟩
    · exact .inr (.inl rfl)
    · exact .inr (.inr (.inr (.inr (.inr (.inl ⟨_, rfl⟩)))))
    · exact .inr (.inr (.inl ⟨b, rfl, hp, hc, rfl⟩))
    · exact .inr (.inr (.inr (.inl ⟨b, rfl, hp, hc, rfl⟩)))
  | finish =>
    rcases execFinish_cases h with ⟨_, rfl⟩ | ⟨_, rfl⟩ | ⟨hp, _, rfl⟩ | ⟨hp, _, rfl⟩
    · exact .inr (.inl rfl)
    · exact .inr (.inr (.inr (.inr (.inr (.inl ⟨_, rfl⟩)))))
    · exact .inr (.inr (.inr (.inr (.inl ⟨rfl, hp, _, _, by decide, rfl⟩))))
    · exact .inr (.inr (.inr (.inr (.inl ⟨rfl, hp, _, _, by decide, rfl⟩))))
  | rddig idx =>
    rcases execRddig_cases h with ⟨_, rfl⟩ | ⟨_, _, rfl⟩ | ⟨_, _, rfl⟩ | ⟨_, _, rfl⟩
    · exact .inr (.inr (.inr (.inr (.inr (.inl ⟨_, rfl⟩)))))
    · exact .inr (.inl rfl)
    · exact .inr (.inr (.inr (.inr (.inr (.inr (.inl ⟨_, rfl⟩))))))
    · exact .inr (.inr (.inr (.inr (.inr (.inr (.inr ⟨_, _, rfl⟩))))))
  | rdstat =>
    cases h
    exact .inr (.inr (.inr (.inr (.inr (.inr (.inl ⟨_, rfl⟩))))))
  | rdlen idx =>
    rcases execRdlen_cases h with ⟨_, rfl⟩ | ⟨_, _, rfl⟩ | ⟨_, _, rfl⟩
    · exact .inr (.inr (.inr (.inr (.inr (.inl ⟨_, rfl⟩)))))
    · exact .inr (.inl rfl)
    · exact .inr (.inr (.inr (.inr (.inr (.inr (.inl ⟨_, rfl⟩))))))

/-- What no command writes: the inputs, the schedule and the record of a read of V and W with no value. -/
theorem exec_frame {i : Instr} (h : exec i s = .next t) :
    t.port = s.port ∧ t.pending = s.pending ∧ t.resetIn = s.resetIn ∧ t.turn = s.turn ∧
    t.clock = s.clock ∧ t.noValueRead = s.noValueRead := by
  rcases exec_cases h with ⟨_, rfl⟩ | rfl | ⟨_, _, _, _, rfl⟩ | ⟨_, _, _, _, rfl⟩ | ⟨_, _, _, _, _, rfl⟩ |
    ⟨_, rfl⟩ | ⟨_, rfl⟩ | ⟨_, _, rfl⟩ <;> simp

/-! ### The status register -/

/-- STATUS is a view of phase, ERR, LEN_OVF, cur and ECODE alone. -/
theorem State.status_congr (hp : s.phase = t.phase) (he : s.err = t.err) (hl : s.lenOvf = t.lenOvf)
    (hc : s.cur = t.cur) (hk : s.ecode = t.ecode) : s.status = t.status := by
  simp only [State.status, State.ready, State.busy, State.done, hp, he, hl, hc, hk]

/-! ### The next move and the machine's step -/

theorem nextMove_reset_iff : s.nextMove = .reset ↔ s.resetAsserted = true := by
  unfold State.nextMove
  by_cases hr : s.resetAsserted = true
  · simp [hr]
  · rw [if_neg hr]
    constructor
    · intro h
      exfalso
      split at h
      · split at h <;> cases h
      · split at h
        · split at h
          · cases h
          · split at h <;> cases h
        · cases h
    · intro h
      exact absurd h hr

/-- The next move, with the reset input low. -/
theorem nextMove_cases (hr : s.resetAsserted = false) :
    (s.nextMove = .core ∧ s.phase = .busy) ∨
    (s.nextMove = .idle ∧ s.phase ≠ .busy ∧ s.port = []) ∨
    (∃ w rest, s.nextMove = .command w ∧ s.port = w :: rest ∧
      (s.phase = .busy → wordWaits w = false ∧ s.turn = .host)) := by
  unfold State.nextMove
  simp only [hr, Bool.false_eq_true, if_false]
  split
  · next hport =>
    by_cases hp : s.phase = .busy
    · simp [hp]
    · simp [hp, hport]
  · next w rest hport =>
    by_cases hp : s.phase = .busy
    · by_cases hw : wordWaits w = true
      · simp [hp, hw]
      · by_cases ht : s.turn = .core
        · simp [hp, ht]
        · have ht' : s.turn = .host := by
            cases h : s.turn with
            | host => rfl
            | core => exact absurd h ht
          have hw' : wordWaits w = false := by simpa using hw
          exact .inr (.inr ⟨w, rest, by simp [hp, hw', ht'], hport, fun _ => ⟨hw', ht'⟩⟩)
    · exact .inr (.inr ⟨w, rest, by simp [hp], hport, fun h => absurd h hp⟩)

/-- The machine's step, when it answers a next state. -/
theorem step_cases (h : step s = .next t) :
    (s.nextMove = .reset ∧ t = s.takeReset) ∨
    (s.nextMove = .core ∧ coreStep s.tick = .next t) ∨
    (s.nextMove = .idle ∧ t = s.idle) ∨
    (∃ w i, s.nextMove = .command w ∧ decode w = .command i ∧ exec i s.accept = .next t) ∨
    (∃ w why, s.nextMove = .command w ∧ decode w = .illegal why ∧ t = s.accept.raise .illegalCmd) := by
  unfold step at h
  split at h
  · next hm => cases h; exact .inl ⟨hm, rfl⟩
  · next hm => exact .inr (.inl ⟨hm, h⟩)
  · next hm => cases h; exact .inr (.inr (.inl ⟨hm, rfl⟩))
  · next w hm =>
    split at h
    · next i hd => exact .inr (.inr (.inr (.inl ⟨w, i, hm, hd, h⟩)))
    · next why hd => cases h; exact .inr (.inr (.inr (.inr ⟨w, why, hm, hd, rfl⟩)))

/-- Every step answers a next state in every state: the machine never stops. -/
theorem step_next (s : State) : ∃ t, step s = .next t := by
  unfold step
  split
  · exact ⟨_, rfl⟩
  · exact coreStep_next _
  · exact ⟨_, rfl⟩
  · split
    · exact exec_next _ _
    · exact ⟨_, rfl⟩

/-- The command at the head of the port is held exactly in BUSY, when its word is one that waits. -/
theorem State.headHeld_cons {w : Command} {rest : List Command} (h : s.port = w :: rest) :
    s.headHeld = (decide (s.phase = .busy) && wordWaits w) := by
  simp only [State.headHeld, h]

/-- Steps in a row, taken apart. -/
theorem steps_add {m n : Nat} (h : steps m s = .next t) : steps (m + n) s = steps n t := by
  induction m generalizing s with
  | zero => cases h; rw [Nat.zero_add]
  | succ m ih =>
    rw [Nat.succ_add]
    simp only [steps] at h ⊢
    split at h
    · next => exact ih h
    · cases h
    · cases h

end Sys2Proof.Machine
end

