-- ==== Sys2Proof/Tests/Slice0.lean ====
section
/-!
SUPPORT. Tests of the model against the vectors and examples of spec/ (each names its source), the smoke
test of the well-formedness checks, and for every obligation with hypotheses a state and operands that
meet all of them (witness_<the obligation's name>).
-/

namespace Sys2Proof.Tests

open Sys2Proof.Machine

/-- What `f` says of the state an outcome leads to, or none where it stops. -/
def after {α : Type} (o : Host.Outcome State Fault Refusal) (f : State → α) : Option α :=
  match o with
  | .next s => some (f s)
  | .fault _ => none
  | .refused _ => none

/-- The reset state with the host's next word being `w`. -/
def issuing (w : Nat) : State := State.reset.withFetchWord 16 w

/-- A core that has just loaded an empty FINAL block. -/
def busyState : State := State.reset.load .final

/-- A core in DONE. -/
def doneState : State := State.reset.setPhase .done

/-! ### Well-formedness (R71) -/

theorem test_wellFormed_refuses_rddig_reserved_bit : ¬ (Instr.rddig 8#4).WellFormed := by decide
theorem test_wellFormed_refuses_rdlen_reserved_bits :
    ¬ (Instr.rdlen 2#4).WellFormed ∧ ¬ (Instr.rdlen 4#4).WellFormed ∧ ¬ (Instr.rdlen 8#4).WellFormed := by
  decide
theorem test_wellFormed_accepts :
    (Instr.rddig 7#4).WellFormed ∧ (Instr.rdlen 1#4).WellFormed ∧ (Instr.push 0xff#8).WellFormed := by
  decide

/-! ### Decoding: each word written out bit by bit from the patterns of R72 -/

theorem test_decode_init : decode 0b0001000000000000#16 = .command .init := by decide
theorem test_decode_push : decode 0b0010000001100001#16 = .command (.push 0x61#8) := by decide
theorem test_decode_finish : decode 0b0011000000000000#16 = .command .finish := by decide
theorem test_decode_rddig : decode 0b0100010100000000#16 = .command (.rddig 5#4) := by decide
theorem test_decode_rdstat : decode 0b0101000000000000#16 = .command .rdstat := by decide
theorem test_decode_rdlen : decode 0b0110000100000000#16 = .command (.rdlen 1#4) := by decide
/-- R74's examples of ILLEGAL words, by the reason each gives. -/
theorem test_decode_illegal :
    decode 0x0000#16 = .illegal .illegalOpcode ∧ decode 0x1001#16 = .illegal .reservedData ∧
    decode 0x2100#16 = .illegal .reservedIdx ∧ decode 0x4800#16 = .illegal .reservedIdx ∧
    decode 0x6200#16 = .illegal .reservedIdx ∧ decode 0xf000#16 = .illegal .illegalOpcode := by decide
theorem test_decodeTableWord :
    decodeTableWord 16 0x2000 = some (.push 0#8) ∧ decodeTableWord 16 0x4000 = some (.rddig 0#4) ∧
    decodeTableWord 16 0x7000 = none := by decide

/-! ### Word functions: 95_test_vectors.md section 2.1 -/

theorem test_rotr : rotr 0x12345678#32 4 = 0x81234567#32 ∧ rotr 0x80000000#32 31 = 0x00000001#32 ∧
    rotr 0x12345678#32 0 = 0x12345678#32 := by decide
theorem test_shr : shr 0x0000000f#32 3 = 0x00000001#32 ∧ shr 0xf0000000#32 3 = 0x1e000000#32 := by decide
theorem test_add32 : add32 [0xffffffff#32, 1#32] = 0#32 ∧ add32 [0x6a09e667#32, 1#32] = 0x6a09e668#32 := by
  decide
theorem test_sigma :
    ssig0 0x12345678#32 = 0xe7fce6ee#32 ∧ ssig1 0x12345678#32 = 0xa1f78649#32 ∧
    bsig0 0x12345678#32 = 0x66146474#32 ∧ bsig1 0x12345678#32 = 0x3561abda#32 := by decide
theorem test_ch : ch 0xf0f0f0f0#32 0xff00ff00#32 0x0f0f0f0f#32 = 0xff0fff0f#32 := by decide
theorem test_maj : maj 0xf0f0f0f0#32 0xff00ff00#32 0x0f0f0f0f#32 = 0xff00ff00#32 := by decide

/-! ### Schedule, rounds and digests: 95_test_vectors.md sections 1, 2.3, 2.4 -/

/-- The block of "abc" as words. -/
def abcBlock : Vector Word 16 :=
  #v[0x61626380#32, 0#32, 0#32, 0#32, 0#32, 0#32, 0#32, 0#32, 0#32, 0#32, 0#32, 0#32, 0#32, 0#32, 0#32, 0x18#32]

theorem test_expand_abc : (expand abcBlock)[17] = 0x000f0000#32 ∧ (expand abcBlock)[23] = 0xe2e2c38e#32 := by
  decide
theorem test_round_0_abc :
    (compressRound H0 0x428a2f98#32 0x61626380#32)[0] = 0x5d6aebcd#32 ∧
    (compressRound H0 0x428a2f98#32 0x61626380#32)[4] = 0xfa2a4622#32 := by decide
/-- Section 2.4: every addition wraps. -/
theorem test_round_all_ones :
    (compressRound (Vector.replicate 8 0xffffffff#32) 0xffffffff#32 0xffffffff#32)[0] = 0xfffffff9#32 ∧
    (compressRound (Vector.replicate 8 0xffffffff#32) 0xffffffff#32 0xffffffff#32)[4] = 0xfffffffa#32 := by
  decide
/-- Section 1.2, the digest of "abc", which pins K and H0. -/
theorem test_digest_abc :
    digest [0x61#8, 0x62#8, 0x63#8] =
      [0xba#8, 0x78#8, 0x16#8, 0xbf#8, 0x8f#8, 0x01#8, 0xcf#8, 0xea#8, 0x41#8, 0x41#8, 0x40#8, 0xde#8, 0x5d#8,
        0xae#8, 0x22#8, 0x23#8, 0xb0#8, 0x03#8, 0x61#8, 0xa3#8, 0x96#8, 0x17#8, 0x7a#8, 0x9c#8, 0xb4#8,
        0x10#8, 0xff#8, 0x61#8, 0xf2#8, 0x00#8, 0x15#8, 0xad#8] := by decide +kernel
/-- Section 1.1, the digest of the empty message. -/
theorem test_digest_empty :
    digest [] =
      [0xe3#8, 0xb0#8, 0xc4#8, 0x42#8, 0x98#8, 0xfc#8, 0x1c#8, 0x14#8, 0x9a#8, 0xfb#8, 0xf4#8, 0xc8#8, 0x99#8,
        0x6f#8, 0xb9#8, 0x24#8, 0x27#8, 0xae#8, 0x41#8, 0xe4#8, 0x64#8, 0x9b#8, 0x93#8, 0x4c#8, 0xa4#8,
        0x95#8, 0x99#8, 0x1b#8, 0x78#8, 0x52#8, 0xb8#8, 0x55#8] := by decide +kernel
/-- Section 1.3 (R125): 55, 56 and 64 bytes give 1, 2 and 2 blocks. -/
theorem test_pad_counts :
    (pad (List.replicate 55 0x61#8)).length = 1 ∧ (pad (List.replicate 56 0x61#8)).length = 2 ∧
    (pad (List.replicate 64 0x61#8)).length = 2 := by decide

/-! ### The commands, each as the first step after reset: section 2.7 -/

/-- R193's example: the byte at the cursor, L in bits, STATUS with CUR = 1. -/
theorem test_push_first :
    after (step (issuing 0x2061)) (fun s => (s.M, s.cur, s.L, s.status, s.port)) =
      some ([(0, 0x61#8)], 1#6, 8#64, 0x00000101#32, []) := by decide
/-- Section 2.7: from L = 2^64 − 8, PUSH 0x00 gives L = 0, LEN_OVF = 1, STATUS = 0x00000111. -/
theorem test_push_wraps_length :
    after (exec (.push 0x00#8) { State.reset with L := 0xFFFFFFFFFFFFFFF8#64 })
      (fun s => (s.L, s.lenOvf, s.status)) = some (0#64, true, 0x00000111#32) := by decide
/-- R127: FINISH right after reset loads 80 00 … 00 as FINAL. -/
theorem test_finish_empty :
    after (step (issuing 0x3000)) (fun s => (s.kind, s.status, s.W[0], s.W[15])) =
      some (.final, 0x00000002#32, 0x80000000#32, 0x00000000#32) := by decide
/-- R194: with c = 56 the length goes in the next block. -/
theorem test_finish_two_blocks :
    after (exec .finish { State.reset with cur := 56#6, L := 448#64 }) (fun s => (s.kind, s.W[14], s.W[15])) =
      some (.pad1, 0x80000000#32, 0x00000000#32) := by decide
/-- Section 2.7: INIT clears an error and STATUS reads 1. -/
theorem test_init_clears :
    after (exec .init (doneState.raise .pushInDone)) (fun s => (s.status, s.H, s.faults)) =
      some (0x00000001#32, H0, [.pushInDone]) := by decide
/-- R195's DONE arm: RDDIG 7 returns H[7]. -/
theorem test_rddig_done :
    after (exec (.rddig 7#4) doneState) (fun s => s.responses) = some [.data 0x5be0cd19#32] := by decide
/-- Section 2.7: RDDIG in ACCEPT is protocol error 4, STATUS 0x00040009, and returns no value. -/
theorem test_rddig_accept :
    after (step (issuing 0x4000)) (fun s => (s.status, s.responses)) =
      some (0x00040009#32, [.noValue]) := by decide
/-- Section 2.7: RDSTAT right after reset. -/
theorem test_rdstat_reset :
    after (step (issuing 0x5000)) (fun s => s.responses) = some [.data 0x00000001#32] := by decide
/-- R197: RDLEN 0 is the high half, RDLEN 1 the low half. -/
theorem test_rdlen_halves :
    after (exec (.rdlen 0#4) { State.reset with L := 0x0000000100000018#64 }) (fun s => s.responses) =
      some [.data 0x00000001#32] ∧
    after (exec (.rdlen 1#4) { State.reset with L := 0x0000000100000018#64 }) (fun s => s.responses) =
      some [.data 0x00000018#32] := by decide
/-- Section 2.7: PUSH and FINISH in DONE, STATUS 0x0002000c and 0x0003000c. -/
theorem test_errors_in_done :
    after (exec (.push 0x61#8) doneState) State.status = some 0x0002000c#32 ∧
    after (exec .finish doneState) State.status = some 0x0003000c#32 := by decide
/-- Section 2.7: an ILLEGAL word after reset, STATUS 0x00010009. -/
theorem test_illegal_word :
    after (step (issuing 0x0000)) (fun s => (s.status, s.responses)) = some (0x00010009#32, []) := by decide
/-- Section 2.7: the second error keeps the first code. -/
theorem test_second_error_keeps_code :
    after (execIllegal (doneState.raise .finishInDone)) State.status = some 0x0003000c#32 := by decide

/-! ### The core's steps and the hold -/

/-- R174: round 0 of an empty block (section 2.4), t from 0 to 1. -/
theorem test_round_step :
    after (coreStep { busyState with W := expand (blockWords (blockByte (padBlock []))) })
      (fun s => (s.V[0], s.V[4], s.t)) = some (0x7c08884d#32, 0x18c7e2a2#32, 1) := by decide
/-- R175: the final-add step of a FINAL block goes to DONE. -/
theorem test_final_add :
    after (coreStep { busyState with t := 64 }) (fun s => (s.phase, s.H[0])) =
      some (.done, 0xd413ccce#32) := by decide
/-- R191: PUSH waits at the head of the port, pending, while the core steps. -/
theorem test_hold :
    after (step { busyState with port := [0x2061#16] }) (fun s => (s.port, s.pending, s.t)) =
      some ([0x2061#16], true, 1) := by decide
/-- R191, R230: the final-add step of a data block lifts the hold, and the command stays pending. -/
theorem test_hold_lifted :
    after (step { busyState with port := [0x2061#16], t := 64, kind := .data })
      (fun s => (s.port, s.pending, s.phase)) = some ([0x2061#16], true, .accept) := by decide
/-- R230: a reset before the pending command is accepted discards it; one that was never held stays. -/
theorem test_reset_discards_pending :
    after (step { State.reset with port := [0x2061#16, 0x5000#16], pending := true, resetIn := [true] })
      (fun s => (s.port, s.pending)) = some ([0x5000#16], false) ∧
    after (step { State.reset with port := [0x2061#16, 0x5000#16], resetIn := [true] })
      (fun s => (s.port, s.pending)) = some ([0x2061#16, 0x5000#16], false) := by decide
/-- R61, S6: after the first command from reset the schedule's choice is a free value. -/
theorem test_schedule_free_after_first_command :
    after (step (issuing 0x3000)) (fun s => (s.turn, s.clock)) = some (Config.nextTurn 0, 1) := by rfl
/-- R230, R231: reset in BUSY; the held command is discarded. -/
theorem test_reset_in_busy :
    after (step { busyState with port := [0x2061#16, 0x5000#16], resetIn := [true] })
      (fun s => (s.phase, s.port, s.status)) = some (.accept, [0x5000#16], 0x00000001#32) := by decide
/-- R232: a core step with V and W holding no value goes on and is recorded. -/
theorem test_no_value :
    after (coreStep (State.reset.setPhase .busy)) (fun s => (s.noValueRead, s.faulted, s.t, s.H)) =
      some (true, true, 1, H0) := by decide

/-! ### Assembler lines (R77, R78) -/

theorem test_assemble :
    assemble (.rddig 7) = .words [0x4700#16] ∧ assemble (.rddig 8) = .error .operandOutOfRange ∧
    assemble (.hash ['a']) =
      .words [0x1000#16, 0x2061#16, 0x3000#16, 0x4000#16, 0x4100#16, 0x4200#16, 0x4300#16, 0x4400#16,
        0x4500#16, 0x4600#16, 0x4700#16] := by decide

/-! ### Witnesses: states and operands that meet the obligations' hypotheses -/

theorem witness_DecodeOfEncode : (Instr.rddig 7#4).WellFormed ∧ (Instr.rdlen 1#4).WellFormed := by decide
theorem witness_EncodeOfDecode : decode 0x4700#16 = .command (.rddig 7#4) := by decide
theorem witness_OperandsAreWordFields :
    decode 0x4700#16 = .command (.rddig 7#4) ∧ decode 0x6100#16 = .command (.rdlen 1#4) := by decide
theorem witness_AssemblerLineWords :
    (∀ c ∈ ['a', 'b'], c.toNat < 128) ∧ assemble (.pushs ['a', 'b']) = .words [0x2061#16, 0x2062#16] ∧
    256 ≤ 256 ∧ 8 ≤ 8 ∧ 2 ≤ 2 :=
  ⟨by simp, by decide, by decide⟩
theorem witness_StepRunsDecodedCommand_accept :
    (issuing 0x2061).port = 0x2061#16 :: [] ∧ decode 0x2061#16 = .command (.push 0x61#8) ∧
    (issuing 0x2061).resetIn.headD false = false ∧ (issuing 0x2061).phase ≠ .busy := by decide
theorem witness_StepRunsDecodedCommand_busy :
    ({ busyState with port := [0x5000#16] } : State).port = 0x5000#16 :: [] ∧
    decode 0x5000#16 = .command .rdstat ∧ busyState.resetIn.headD false = false ∧
    busyState.phase = .busy ∧ waitsForCore .rdstat = false ∧ busyState.turn = .host := by decide
theorem witness_HeldCommandStaysAtHead :
    ({ busyState with port := [0x3000#16] } : State).port = 0x3000#16 :: [] ∧
    decode 0x3000#16 = .command .finish ∧ waitsForCore .finish = true ∧ busyState.phase = .busy ∧
    busyState.resetIn.headD false = false ∧ decode 0x7000#16 = .illegal .illegalOpcode ∧
    (after (step { busyState with port := [0x3000#16] }) State.phase).isSome = true := by decide
theorem witness_IllegalWordRaises :
    ({ busyState with port := [0x7000#16] } : State).port = 0x7000#16 :: [] ∧
    decode 0x7000#16 = .illegal .illegalOpcode ∧ busyState.resetIn.headD false = false ∧
    busyState.phase = .busy ∧ busyState.turn = .host := by decide
theorem witness_ResetTakesPrecedence :
    ({ busyState with resetIn := [true] } : State).resetIn.headD false = true ∧ busyState.port = [] ∧
    ({ busyState with port := [0x2061#16] } : State).port = 0x2061#16 :: [] ∧
    wordWaits 0x2061#16 = true ∧ wordWaits 0x5000#16 = false := by decide
theorem witness_IdleCoreKeepsState :
    doneState.port = [] ∧ doneState.resetIn = [] ∧ doneState.phase ≠ .busy := by decide
theorem witness_Inv_accept : (issuing 0x2061).Inv := by constructor <;> decide
theorem witness_Inv_busy : busyState.Inv := by constructor <;> decide
theorem witness_Inv_done : doneState.Inv := by constructor <;> decide
theorem witness_InvKeptByStep :
    (issuing 0x2061).Inv ∧ ∃ t, step (issuing 0x2061) = .next t :=
  ⟨witness_Inv_accept, _, rfl⟩
theorem witness_NoStepStops : busyState.Inv ∧ ∃ t, step busyState = .next t :=
  ⟨witness_Inv_busy, _, rfl⟩
theorem witness_UnloadedCoreStepReadsFreeValues :
    (State.reset.setPhase .busy).phase = .busy ∧ (State.reset.setPhase .busy).vwLoaded = false ∧
    ∃ t, step (State.reset.setPhase .busy) = .next t ∧ t.noValueRead = true :=
  ⟨rfl, rfl, _, rfl, rfl⟩
theorem witness_BusyPeriodEnds :
    busyState.Inv ∧ busyState.phase = .busy ∧ busyState.resetIn = [] :=
  ⟨witness_Inv_busy, rfl, rfl⟩
theorem witness_ScheduleIsDrawnAtEveryStep :
    busyState.phase = .busy ∧ ({ busyState with port := [0x5000#16] } : State).port = 0x5000#16 :: [] ∧
    wordWaits 0x5000#16 = false ∧ busyState.resetIn.headD false = false ∧ busyState.turn = .host ∧
    ({ busyState with turn := .core } : State).turn = .core ∧ (issuing 0x2061).nextMove ≠ .idle ∧
    (after (step (issuing 0x2061)) State.phase).isSome = true := by decide
/-- Each clause of PUSH, with the cursor at both ends of its range. -/
theorem witness_PushEffect :
    State.reset.M.wf = true ∧ State.reset.phase = .accept ∧ State.reset.cur ≠ 63#6 ∧
    ({ State.reset with cur := 62#6 } : State).cur ≠ 63#6 ∧
    ({ State.reset with cur := 63#6 } : State).cur = 63#6 ∧ busyState.M.wf = true ∧
    busyState.phase = .busy ∧ doneState.M.wf = true ∧ doneState.phase = .done := by decide
/-- Each clause of FINISH, with the cursor at both sides of the boundary. -/
theorem witness_FinishEffect :
    ({ State.reset with cur := 55#6 } : State).cur.toNat ≤ 55 ∧
    56 ≤ ({ State.reset with cur := 56#6 } : State).cur.toNat ∧
    56 ≤ ({ State.reset with cur := 63#6 } : State).cur.toNat ∧ State.reset.phase = .accept ∧
    State.reset.M.wf = true ∧ busyState.phase = .busy ∧ busyState.M.wf = true ∧
    doneState.phase = .done ∧ doneState.M.wf = true := by decide
theorem witness_RddigEffect :
    doneState.phase = .done ∧ State.reset.phase = .accept ∧ busyState.phase = .busy := by decide
theorem witness_RdlenEffect :
    State.reset.phase ≠ .busy ∧ doneState.phase ≠ .busy ∧ busyState.phase = .busy := by decide
theorem witness_IllFormedReadIsIllegal :
    ¬ (Instr.rddig 8#4).WellFormed ∧ ¬ (Instr.rdlen 2#4).WellFormed := by decide
theorem witness_ReadCommandsChangeNoState :
    (∃ t, exec .rdstat State.reset = .next t) ∧ (∃ t, exec (.rddig 0#4) State.reset = .next t) ∧
    ∃ t, exec (.rdlen 0#4) State.reset = .next t :=
  ⟨⟨_, rfl⟩, ⟨_, rfl⟩, ⟨_, rfl⟩⟩
theorem witness_HiddenStateIsUnread :
    (∃ a, exec .rdstat busyState = .next a) ∧
    ∃ b, exec .rdstat { busyState with V := H0, W := K, vwLoaded := false, kind := .data, t := 3, M := [] } =
      .next b :=
  ⟨⟨_, rfl⟩, ⟨_, rfl⟩⟩
theorem witness_HashWriters :
    ∃ t, step { issuing 0x1000 with H := Vector.replicate 8 0#32 } = .next t ∧
      t.H ≠ Vector.replicate 8 0#32 :=
  ⟨_, rfl, by decide⟩
theorem witness_BitLengthWriters : ∃ t, step (issuing 0x2061) = .next t ∧ t.L ≠ (issuing 0x2061).L :=
  ⟨_, rfl, by decide⟩
theorem witness_ErrClearedOnlyByInitOrReset :
    ∃ t, step { issuing 0x1000 with err := true } = .next t ∧
      ({ issuing 0x1000 with err := true } : State).err = true ∧ t.err = false :=
  ⟨_, rfl, rfl, rfl⟩
/-- The three clauses: a second error, a first error, and INIT on a code left without ERR. -/
theorem witness_EcodeKeepsFirstCause :
    (∃ t, step { issuing 0x7000 with err := true, ecode := 3#4 } = .next t ∧ t.err = true) ∧
    (∃ t, step (issuing 0x7000) = .next t ∧ (issuing 0x7000).err = false ∧ t.err = true) ∧
    ∃ t, step { issuing 0x1000 with ecode := 3#4 } = .next t ∧ t.err = false ∧ t.ecode ≠ 3#4 :=
  ⟨⟨_, rfl, rfl⟩, ⟨_, rfl, rfl, rfl⟩, ⟨_, rfl, rfl, by decide⟩⟩
theorem witness_LenOvfSticky :
    (∃ t, step { issuing 0x1000 with lenOvf := true } = .next t ∧ t.lenOvf = false) ∧
    ∃ t, step { issuing 0x2000 with L := 0xFFFFFFFFFFFFFFF8#64 } = .next t ∧ t.lenOvf = true :=
  ⟨⟨_, rfl, rfl⟩, ⟨_, rfl, by decide⟩⟩
theorem witness_FaultRecordOnlyGrows :
    (∃ t, step (issuing 0x7000) = .next t ∧ t.faults = [.illegalCmd]) ∧
    (State.reset.raise .illegalCmd).faulted = true ∧
    ({ State.reset with noValueRead := true } : State).faulted = true ∧ (Instr.rddig 7#4).WellFormed ∧
    State.reset.phase = .accept ∧ ∃ t, exec (.rddig 7#4) State.reset = .next t :=
  ⟨⟨_, rfl, rfl⟩, rfl, rfl, by decide, rfl, _, rfl⟩
theorem witness_DoneIsStable :
    ∃ t, step { doneState with port := [0x2061#16] } = .next t ∧ doneState.phase = .done ∧
      ({ doneState with port := [0x2061#16] } : State).nextMove ≠ .reset ∧
      ({ doneState with port := [0x2061#16] } : State).nextMove ≠ .command 0x1000#16 :=
  ⟨_, rfl, rfl, by decide, by decide⟩
/-- The round step at both ends of its range. -/
theorem witness_RoundStepEffect :
    busyState.phase = .busy ∧ busyState.vwLoaded = true ∧ busyState.t.val = (0 : Fin 64).val ∧
    ({ busyState with t := 63 } : State).t.val = (63 : Fin 64).val := by decide
theorem witness_FinalAddEffect :
    ({ busyState with t := 64, kind := .data } : State).kind = .data ∧
    ({ busyState with t := 64 } : State).t.val = 64 ∧ busyState.kind = .final ∧
    ({ busyState with t := 64, kind := .pad1 } : State).kind = .pad1 ∧ busyState.M.wf = true ∧
    busyState.phase = .busy ∧ busyState.vwLoaded = true ∧ ∀ o, busyState.M.read o = 0#8 := by decide
theorem witness_BlockTakes65CoreSteps :
    busyState.phase = .busy ∧ busyState.vwLoaded = true ∧ busyState.t = 0 ∧ busyState.V = busyState.H ∧
    busyState.kind ≠ .pad1 := by decide
theorem witness_FinishReachesDone :
    State.reset.phase = .accept ∧ State.reset.cur.toNat ≤ 55 ∧
    56 ≤ ({ State.reset with cur := 56#6 } : State).cur.toNat ∧ (∃ t, exec .finish State.reset = .next t) ∧
    ∃ t, exec .finish { State.reset with cur := 56#6 } = .next t :=
  ⟨rfl, by decide, by decide, ⟨_, rfl⟩, ⟨_, rfl⟩⟩
theorem witness_Fresh : State.reset.Fresh := by constructor <;> decide
theorem witness_RunComputesDigest :
    ({ State.reset with port := messageWords [0x61#8] } : State).Fresh ∧
    ({ State.reset with port := messageWords [0x61#8] } : State).resetIn = [] ∧
    ({ State.reset with port := messageWords [0x61#8] } : State).port = messageWords [0x61#8] :=
  ⟨by constructor <;> decide, rfl, rfl⟩
theorem witness_PadBlockCount :
    (List.replicate 55 0x61#8).length % 64 ≤ 55 ∧ 56 ≤ (List.replicate 56 0x61#8).length % 64 ∧
    56 ≤ (List.replicate 63 0x61#8).length % 64 ∧ (List.replicate 64 0x61#8).length % 64 ≤ 55 := by decide
theorem witness_PadOfWholeBlocks :
    0 < (List.replicate 64 0x61#8).length ∧ (List.replicate 64 0x61#8).length % 64 = 0 := by decide
theorem witness_ProtocolErrorCauses :
    (Instr.push 0#8).WellFormed ∧ (Instr.rddig 0#4).WellFormed ∧
    after (exec (.push 0#8) doneState) (fun s => s.faults) = some [.pushInDone] ∧
    after (exec .finish doneState) (fun s => s.faults) = some [.finishInDone] ∧
    after (exec (.rddig 0#4) State.reset) (fun s => s.faults) = some [.rddigNotDone] := by decide
theorem witness_SigmaBits : 0 < 32 ∧ 31 < 32 := by decide
theorem witness_RotrBits : 1 ≤ 31 ∧ 31 ≤ 31 ∧ 31 < 32 := by decide
theorem witness_AddThirtyTwoAnyOrder : [1#32, 2#32].Perm [2#32, 1#32] := by decide
theorem witness_LengthFieldBytes :
    State.reset.M.wf = true ∧ (55#6).toNat < 56 := by decide

end Sys2Proof.Tests
end

/-!
PROOF. The layout of STATUS (spec/10_state.md R35): STATUS is a concatenation, so a bit or a field of it is
found by dropping the parts below it and, for a field, the parts above it.
-/

namespace Sys2Proof.Machine

open BitVec (extractLsb'_setWidth_of_le extractLsb'_append_eq_of_le extractLsb'_append_eq_of_add_le
  extractLsb'_append_eq_left extractLsb'_eq_self setWidth_eq_append)

variable (s : State)

/-- Bits 4:0 are the flags. -/
theorem State.status_flags :
    s.status.getLsbD 0 = s.ready ∧ s.status.getLsbD 1 = s.busy ∧ s.status.getLsbD 2 = s.done ∧
    s.status.getLsbD 3 = s.err ∧ s.status.getLsbD 4 = s.lenOvf := by
  simp only [State.status, BitVec.getLsbD_setWidth, BitVec.getLsbD_append]
  simp

/-- Bits 19:5 are CUR and ECODE, with a reserved field below each. -/
theorem State.status_fields :
    s.status.extractLsb' 5 3 = 0#3 ∧ s.status.extractLsb' 8 6 = s.cur ∧
    s.status.extractLsb' 14 2 = 0#2 ∧ s.status.extractLsb' 16 4 = s.ecode := by
  simp (disch := omega) only [State.status, extractLsb'_setWidth_of_le, extractLsb'_append_eq_of_le,
    extractLsb'_append_eq_of_add_le]
  exact ⟨extractLsb'_eq_self, extractLsb'_eq_self, extractLsb'_eq_self, extractLsb'_eq_self⟩

/-- Bits 31:20 are the zeros of R35's zero extension. -/
theorem State.status_extract_high : s.status.extractLsb' 20 12 = 0#12 := by
  rw [State.status, setWidth_eq_append (by decide)]
  exact extractLsb'_append_eq_left

/-- Bits 2:0 are the three phase flags. -/
theorem State.status_extract_phase :
    s.status.extractLsb' 0 3 = ((BitVec.ofBool s.done).concat s.busy).concat s.ready := by
  obtain ⟨hready, hbusy, hdone, -, -⟩ := s.status_flags
  ext i hi
  rw [BitVec.getElem_extractLsb', Nat.zero_add]
  interval_cases i
  · simpa using hready
  · simpa using hbusy
  · simpa using hdone

/-- The phase flags are one-hot, because a state has exactly one phase. -/
theorem State.status_phase_oneHot :
    s.status.extractLsb' 0 3 = 1#3 ∨ s.status.extractLsb' 0 3 = 2#3 ∨ s.status.extractLsb' 0 3 = 4#3 := by
  rw [State.status_extract_phase, State.ready, State.busy, State.done]
  cases s.phase with
  | accept => exact .inl rfl
  | busy => exact .inr (.inl rfl)
  | done => exact .inr (.inr rfl)

/-- STATUS reads 1 after reset (R35). -/
theorem State.reset_status : State.reset.status = 0x00000001#32 := rfl

/-- Settles O34, from the layout of STATUS read off its concatenation, part by part. -/
theorem statusLayout : Obligations.StatusLayout := by
  refine ⟨fun s => ?_, State.reset_status⟩
  obtain ⟨hready, hbusy, hdone, herr, hovf⟩ := s.status_flags
  obtain ⟨hlow, hcur, hmid, hecode⟩ := s.status_fields
  exact ⟨hready, hbusy, hdone, herr, hovf, hlow, hcur, hmid, hecode, s.status_extract_high,
    s.status_phase_oneHot⟩

end Sys2Proof.Machine

/-!
PROOF. Byte order (spec/20_memory.md R51 to R55): the bytes of a word lie in it most significant first, so
a byte is read off the word's concatenation and neighbouring bytes of a value join to its words; the digest
is four bytes a word, so its bytes are found by dropping the words before.
-/

namespace Sys2Proof.Machine

open BitVec (extractLsb'_append_eq_of_le extractLsb'_append_eq_of_add_le extractLsb'_eq_self
  extractLsb'_append_extractLsb'_eq_extractLsb')

/-! ### Bytes and words -/

/-- Byte k of a word, counted from the most significant end, is the k-th byte it was put together from. -/
theorem wordOfBytes_extract_byte (byte : Fin 4 → Byte) (k : Fin 4) :
    (wordOfBytes (byte 0) (byte 1) (byte 2) (byte 3)).extractLsb' (24 - 8 * k.val) 8 = byte k := by
  match k with
  | 0 | 1 | 2 | 3 =>
    simp (disch := omega) only [wordOfBytes, extractLsb'_append_eq_of_le, extractLsb'_append_eq_of_add_le]
    exact extractLsb'_eq_self

/-- Four neighbouring bytes of a value make the word that starts at the lowest one. -/
theorem wordOfBytes_of_extracts {w : Nat} (v : BitVec w) (n : Nat) :
    wordOfBytes (v.extractLsb' (n + 24) 8) (v.extractLsb' (n + 16) 8) (v.extractLsb' (n + 8) 8)
      (v.extractLsb' n 8) = v.extractLsb' n 32 := by
  rw [wordOfBytes, extractLsb'_append_extractLsb'_eq_extractLsb' (by omega),
    extractLsb'_append_extractLsb'_eq_extractLsb' (by omega),
    extractLsb'_append_extractLsb'_eq_extractLsb' (by omega)]

/-- Word j of a block, from its four bytes (R51). -/
theorem blockWords_getElem (get : Offset → Byte) {j : Nat} (hj : j < 16) :
    (blockWords get)[j] =
      wordOfBytes (get (BitVec.ofNat 6 (4 * j))) (get (BitVec.ofNat 6 (4 * j + 1)))
        (get (BitVec.ofNat 6 (4 * j + 2))) (get (BitVec.ofNat 6 (4 * j + 3))) := by
  rw [blockWords, Vector.getElem_ofFn]

/-- Settles O53: word j is put together from bytes 4j to 4j + 3. -/
theorem blockByteInWord : Obligations.BlockByteInWord := by
  intro get j k
  rw [Fin.getElem_fin, blockWords_getElem]
  exact wordOfBytes_extract_byte (fun k => get (BitVec.ofNat 6 (4 * j.val + k.val))) k

/-! ### The length field -/

/-- Byte k of `be64`, most significant first (R52). -/
theorem be64_getD (v : BitVec 64) (k : Fin 8) :
    (be64 v).getD k.val 0#8 = v.extractLsb' (56 - 8 * k.val) 8 := by
  match k with
  | 0 | 1 | 2 | 3 | 4 | 5 | 6 | 7 => rfl

/-- Byte 56 + k of the block is byte k of the length. -/
theorem Memory.read_withLengthField_field {m : Memory} (len : BitVec 64) (h : m.wf = true) (k : Fin 8) :
    (m.withLengthField len).read (BitVec.ofNat 6 (56 + k.val)) = len.extractLsb' (56 - 8 * k.val) 8 := by
  have hoff : (BitVec.ofNat 6 (56 + k.val)).toNat = 56 + k.val := by
    rw [BitVec.toNat_ofNat]
    omega
  rw [Memory.read_withLengthField h, hoff, if_pos (by omega), Nat.add_sub_cancel_left, be64_getD]

/-- The length field leaves the bytes below it alone. -/
theorem Memory.read_withLengthField_below {m : Memory} (len : BitVec 64) (h : m.wf = true) {o : Offset}
    (ho : o.toNat < 56) : (m.withLengthField len).read o = m.read o := by
  rw [Memory.read_withLengthField h, if_neg (by omega)]

/-- Settles O54: the bytes as `MemWrite` leaves them, and words 14 and 15 joined from the bytes of the
field's two halves. -/
theorem lengthFieldBytes : Obligations.LengthFieldBytes := by
  intro m len h
  have hbyte := Memory.read_withLengthField_field len h
  refine ⟨hbyte, fun _ => Memory.read_withLengthField_below len h, ?_, ?_⟩
  · rw [blockWords_getElem, ← wordOfBytes_of_extracts]
    congrm wordOfBytes ?_ ?_ ?_ ?_
    exacts [hbyte 0, hbyte 1, hbyte 2, hbyte 3]
  · rw [blockWords_getElem, ← wordOfBytes_of_extracts]
    congrm wordOfBytes ?_ ?_ ?_ ?_
    exacts [hbyte 4, hbyte 5, hbyte 6, hbyte 7]

/-! ### The digest -/

@[simp] theorem be32_length (w : Word) : (be32 w).length = 4 := rfl

/-- Byte k of a word, most significant first (R53). -/
theorem be32_getElem? (w : Word) (k : Fin 4) :
    (be32 w)[k.val]? = some (w.extractLsb' (24 - 8 * k.val) 8) := by
  match k with
  | 0 | 1 | 2 | 3 => rfl

/-- Word i takes the four places from 4i on. -/
theorem flatMap_be32_getElem? (ws : List Word) {i : Nat} (hi : i < ws.length) (k : Fin 4) :
    (ws.flatMap be32)[4 * i + k.val]? = (be32 ws[i])[k.val]? := by
  induction ws generalizing i with
  | nil => exact absurd hi (Nat.not_lt_zero i)
  | cons w ws ih =>
    rw [List.flatMap_cons]
    cases i with
    | zero => rw [List.getElem?_append_left (by simp), Nat.mul_zero, Nat.zero_add, List.getElem_cons_zero]
    | succ i =>
      have hskip : 4 * (i + 1) + k.val - (be32 w).length = 4 * i + k.val := by
        rw [be32_length]
        omega
      rw [List.getElem?_append_right (by rw [be32_length]; omega), hskip, ih (Nat.lt_of_succ_lt_succ hi),
        List.getElem_cons_succ]

theorem serialize_length (h : Vector Word 8) : (serialize h).length = 32 := by
  simp [serialize, List.length_flatMap]

/-- Settles O55: the serialization is the words' bytes in index order, four for each. -/
theorem digestBytes : Obligations.DigestBytes := by
  refine fun h => ⟨serialize_length h, fun i k => ?_⟩
  rw [serialize, flatMap_be32_getElem? h.toList (by simp), be32_getElem?, Vector.getElem_toList,
    Fin.getElem_fin]

end Sys2Proof.Machine

/-!
PROOF. The opcode map (spec/30_encoding.md R72 to R75): a command word is its three fields, so both the
word of a command and a masked match are read field by field, and a word decodes to a command exactly when
it is that command's word.
-/

namespace Sys2Proof

open BitVec (extractLsb'_append_eq_left extractLsb'_append_eq_right extractLsb'_append_eq_of_le
  extractLsb'_append_extractLsb'_eq_extractLsb' extractLsb'_eq_self extractLsb'_and and_allOnes)

/-! ### The fields of a word -/

section Fields

variable (op idx : BitVec 4) (data : Byte)

@[simp] theorem opField_commandWord : opField (commandWord op idx data) = op := by
  rw [opField, commandWord, extractLsb'_append_eq_of_le (by omega)]
  exact extractLsb'_append_eq_left

@[simp] theorem idxField_commandWord : idxField (commandWord op idx data) = idx := by
  rw [idxField, commandWord, extractLsb'_append_eq_of_le (by omega)]
  exact extractLsb'_append_eq_right

@[simp] theorem dataField_commandWord : dataField (commandWord op idx data) = data :=
  extractLsb'_append_eq_right

end Fields

/-- The three fields cover the word (R70). -/
theorem commandWord_fields (w : Command) : commandWord (opField w) (idxField w) (dataField w) = w := by
  rw [commandWord, opField, idxField, dataField,
    extractLsb'_append_extractLsb'_eq_extractLsb' (by omega),
    extractLsb'_append_extractLsb'_eq_extractLsb' (by omega)]
  exact extractLsb'_eq_self

theorem commandWord_eq_iff {op idx : BitVec 4} {data : Byte} {w : Command} :
    commandWord op idx data = w ↔ op = opField w ∧ idx = idxField w ∧ data = dataField w := by
  constructor
  · rintro rfl
    simp
  · rintro ⟨rfl, rfl, rfl⟩
    exact commandWord_fields w

/-- A masked match, field by field. Every row's mask covers the whole opcode. -/
theorem and_commandWord_eq_iff (w : Command) (idxMask op idx : BitVec 4) (dataMask data : Byte) :
    w &&& commandWord (.allOnes 4) idxMask dataMask = commandWord op idx data ↔
      op = opField w ∧ idx = idxField w &&& idxMask ∧ data = dataField w &&& dataMask := by
  have hop : opField (w &&& commandWord (.allOnes 4) idxMask dataMask) = opField w := by
    rw [opField, extractLsb'_and, ← opField, ← opField, opField_commandWord, and_allOnes]
  have hidx : idxField (w &&& commandWord (.allOnes 4) idxMask dataMask) = idxField w &&& idxMask := by
    rw [idxField, extractLsb'_and, ← idxField, ← idxField, idxField_commandWord]
  have hdata : dataField (w &&& commandWord (.allOnes 4) idxMask dataMask) = dataField w &&& dataMask := by
    rw [dataField, extractLsb'_and, ← dataField, ← dataField, dataField_commandWord]
  rw [eq_comm, commandWord_eq_iff, hop, hidx, hdata]

/-! ### Decoding a word -/

theorem checked_eq_command_iff {idxOk dataOk : Bool} {i j : Instr} :
    checked idxOk dataOk i = .command j ↔ idxOk = true ∧ dataOk = true ∧ i = j := by
  cases idxOk <;> cases dataOk <;> simp [checked]

/-- The word of a well-formed command decodes to it (R75). -/
theorem decode_encode {i : Instr} (h : i.WellFormed) : decode (encode i) = .command i := by
  cases i with
  | init | finish | rdstat => rfl
  | push b => simp [decode, encode, checked]
  | rddig idx | rdlen idx =>
    simpa [decode, encode, checked_eq_command_iff, Instr.WellFormed, Instr.wellFormed] using h

/-- A word that decodes to a command is that command's word, and the command is well formed (R75). -/
theorem encode_of_decode {w : Command} {i : Instr} (h : decode w = .command i) :
    encode i = w ∧ i.WellFormed := by
  unfold decode at h
  split_ifs at h with hop hop hop hop hop hop
  all_goals obtain ⟨hidx, hdata, rfl⟩ := checked_eq_command_iff.mp h
  · exact ⟨commandWord_eq_iff.mpr ⟨hop.symm, (eq_of_beq hidx).symm, (eq_of_beq hdata).symm⟩, rfl⟩
  · exact ⟨commandWord_eq_iff.mpr ⟨hop.symm, (eq_of_beq hidx).symm, rfl⟩, rfl⟩
  · exact ⟨commandWord_eq_iff.mpr ⟨hop.symm, (eq_of_beq hidx).symm, (eq_of_beq hdata).symm⟩, rfl⟩
  · exact ⟨commandWord_eq_iff.mpr ⟨hop.symm, rfl, (eq_of_beq hdata).symm⟩, hidx⟩
  · exact ⟨commandWord_eq_iff.mpr ⟨hop.symm, (eq_of_beq hidx).symm, (eq_of_beq hdata).symm⟩, rfl⟩
  · exact ⟨commandWord_eq_iff.mpr ⟨hop.symm, rfl, (eq_of_beq hdata).symm⟩, hidx⟩

/-- Decoding inverts encoding. -/
theorem decode_eq_command_iff {w : Command} {i : Instr} :
    decode w = .command i ↔ encode i = w ∧ i.WellFormed := by
  constructor
  · exact encode_of_decode
  · rintro ⟨rfl, h⟩
    exact decode_encode h

/-! ### The rows -/

theorem rddig_wellFormed_iff (idx : BitVec 4) : (Instr.rddig idx).WellFormed ↔ 0#4 = idx &&& 0x8#4 := by
  revert idx
  decide

theorem rdlen_wellFormed_iff (idx : BitVec 4) : (Instr.rdlen idx).WellFormed ↔ 0#4 = idx &&& 0xE#4 := by
  revert idx
  decide

/-- Under the full mask, the mask of a row without an operand, only the command's own word matches. -/
theorem decode_eq_command_iff_fullMask {w : Command} {i : Instr} (h : i.WellFormed) :
    decode w = .command i ↔ w &&& 0xFFFF#16 = encode i := by
  have hmask : w &&& 0xFFFF#16 = w := and_allOnes
  rw [decode_eq_command_iff, and_iff_left h, hmask, eq_comm]

/-- PUSH's row leaves the data field free. -/
theorem decode_eq_push_iff {w : Command} {b : Byte} :
    decode w = .command (.push b) ↔ w &&& 0xFF00#16 = 0x2000#16 ∧ b = dataField w := by
  have hrow : w &&& 0xFF00#16 = 0x2000#16 ↔ _ :=
    and_commandWord_eq_iff w (.allOnes 4) 0x2#4 0#4 0#8 0#8
  have hwf : (Instr.push b).WellFormed := rfl
  rw [decode_eq_command_iff, encode, commandWord_eq_iff, hrow, and_allOnes, BitVec.and_zero]
  tauto

/-- A word with an index operand and no data: the bits of the index that must be 0 are those the row's mask
covers, so the masked match leaves the others free. -/
theorem commandWord_index_iff {w : Command} {op idx idxMask : BitVec 4} :
    commandWord op idx 0#8 = w ∧ 0#4 = idx &&& idxMask ↔
      w &&& commandWord (.allOnes 4) idxMask (.allOnes 8) = commandWord op 0#4 0#8 ∧ idx = idxField w := by
  rw [commandWord_eq_iff, and_commandWord_eq_iff, and_allOnes]
  constructor
  · rintro ⟨⟨hop, rfl, hdata⟩, hidx⟩
    exact ⟨⟨hop, hidx, hdata⟩, rfl⟩
  · rintro ⟨⟨hop, hidx, hdata⟩, rfl⟩
    exact ⟨⟨hop, rfl, hdata⟩, hidx⟩

/-- RDDIG's row leaves idx[2:0] free. -/
theorem decode_eq_rddig_iff {w : Command} {idx : BitVec 4} :
    decode w = .command (.rddig idx) ↔ w &&& 0xF8FF#16 = 0x4000#16 ∧ idx = idxField w := by
  rw [decode_eq_command_iff, rddig_wellFormed_iff]
  exact commandWord_index_iff

/-- RDLEN's row leaves idx[0] free. -/
theorem decode_eq_rdlen_iff {w : Command} {idx : BitVec 4} :
    decode w = .command (.rdlen idx) ↔ w &&& 0xFEFF#16 = 0x6000#16 ∧ idx = idxField w := by
  rw [decode_eq_command_iff, rdlen_wellFormed_iff]
  exact commandWord_index_iff

/-- Settles O3, row by row: a word decodes to a command exactly when it is its word, and that word
and the masked match of the command's row fix the same fields. -/
theorem decodeFollowsOpcodeMap : Obligations.DecodeFollowsOpcodeMap := by
  intro w
  exact ⟨decode_eq_command_iff_fullMask rfl, fun _ => decode_eq_push_iff, decode_eq_command_iff_fullMask rfl,
    fun _ => decode_eq_rddig_iff, decode_eq_command_iff_fullMask rfl, fun _ => decode_eq_rdlen_iff⟩

end Sys2Proof

/-!
PROOF. The read commands (spec/30_encoding.md R73): each leaves the state alone, raises a protocol error,
answers the host, or does both.
-/

namespace Sys2Proof.Machine

/-- Settles O25, by the cases of each read command: a raised error writes ERR, ECODE and the fault record,
and a response is added to the responses. -/
theorem readCommandsChangeNoState : Obligations.ReadCommandsChangeNoState := by
  rintro s t i (rfl | ⟨idx, rfl⟩ | ⟨idx, rfl⟩) h
  · cases h
    rfl
  · rcases execRddig_cases h with ⟨-, rfl⟩ | ⟨-, -, rfl⟩ | ⟨-, -, rfl⟩ | ⟨-, -, rfl⟩
    · rfl
    · rfl
    · rfl
    · rfl
  · rcases execRdlen_cases h with ⟨-, rfl⟩ | ⟨-, -, rfl⟩ | ⟨-, -, rfl⟩
    · rfl
    · rfl
    · rfl

end Sys2Proof.Machine

/-!
PROOF. The word functions (spec/40_functions.md R100 to R108): rotation, the mixing functions, choose and
majority are read bit by bit, and add32 is the list sum of 32-bit words.
-/

namespace Sys2Proof.Machine

open BitVec (getLsbD_and getLsbD_xor getLsbD_not getLsbD_ushiftRight eq_of_getLsbD_eq)

/-! ### Rotation -/

/-- Right rotation is the library's, which has the lemmas about bits. -/
theorem rotr_eq_rotateRight (x : Word) (n : Nat) : rotr x n = x.rotateRight n :=
  BitVec.rotateRight_def.symm

theorem rotr_eq_rotr_mod (x : Word) (n : Nat) : rotr x n = rotr x (n % 32) := by
  rw [rotr, rotr, Nat.mod_mod]

/-- Below 32 the amount stands in the formula as it is. At 0 the left shift is by 32 and leaves nothing. -/
theorem rotr_of_lt (x : Word) {n : Nat} (hn : n < 32) : rotr x n = (x >>> n) ||| (x <<< (32 - n)) := by
  rw [rotr, Nat.mod_eq_of_lt hn]

theorem rotr_zero (x : Word) : rotr x 0 = x := by
  rw [rotr_of_lt x (by omega), BitVec.ushiftRight_zero, BitVec.shiftLeft_eq_zero (by omega), BitVec.or_zero]

/-- A bit comes from `n` places above it; past the top it comes from the bottom of the word (R101). -/
theorem getLsbD_rotr (x : Word) (n : Nat) {k : Nat} (hk : k < 32) :
    (rotr x n).getLsbD k = x.getLsbD ((k + n) % 32) := by
  rw [rotr_eq_rotateRight, BitVec.getLsbD_rotateRight, decide_eq_true hk, Bool.true_and]
  by_cases hlow : k < 32 - n % 32
  · have hplace : n % 32 + k = (k + n) % 32 := by omega
    rw [decide_eq_true hlow, cond_true, hplace]
  · have hplace : k - (32 - n % 32) = (k + n) % 32 := by omega
    rw [decide_eq_false hlow, cond_false, hplace]

/-- Settles O48: bits within the word and bits wrapped round are the two shifts' shares. -/
theorem rotrBits : Obligations.RotrBits :=
  ⟨rotr_zero, fun x _ _ hn => rotr_of_lt x (by omega), fun x n _ hk => getLsbD_rotr x n hk,
    rotr_eq_rotr_mod⟩

/-! ### The mixing functions -/

theorem getLsbD_shr (x : Word) (n k : Nat) : (shr x n).getLsbD k = x.getLsbD (k + n) := by
  rw [shr, getLsbD_ushiftRight, Nat.add_comm]

/-- Settles O49, from the bits of rotation and shift. -/
theorem sigmaBits : Obligations.SigmaBits := by
  intro x k hk
  refine ⟨?_, ?_, ?_, ?_⟩
  · rw [ssig0, getLsbD_xor, getLsbD_xor, getLsbD_rotr x 7 hk, getLsbD_rotr x 18 hk, getLsbD_shr]
  · rw [ssig1, getLsbD_xor, getLsbD_xor, getLsbD_rotr x 17 hk, getLsbD_rotr x 19 hk, getLsbD_shr]
  · rw [bsig0, getLsbD_xor, getLsbD_xor, getLsbD_rotr x 2 hk, getLsbD_rotr x 13 hk, getLsbD_rotr x 22 hk]
  · rw [bsig1, getLsbD_xor, getLsbD_xor, getLsbD_rotr x 6 hk, getLsbD_rotr x 11 hk, getLsbD_rotr x 25 hk]

/-! ### Choose -/

/-- Above bit 31 all three operands read 0, and so does the result. -/
theorem getLsbD_ch (x y z : Word) (k : Nat) :
    (ch x y z).getLsbD k = if x.getLsbD k then y.getLsbD k else z.getLsbD k := by
  rw [ch, getLsbD_xor, getLsbD_and, getLsbD_and, getLsbD_not]
  by_cases hk : k < 32
  · cases x.getLsbD k with
    | true => simp
    | false => simp [hk]
  · simp [BitVec.getLsbD_of_ge _ k (Nat.le_of_not_lt hk)]

theorem ch_allOnes (y z : Word) : ch (.allOnes 32) y z = y :=
  eq_of_getLsbD_eq fun k hk => by rw [getLsbD_ch, BitVec.getLsbD_allOnes, if_pos (decide_eq_true hk)]

theorem ch_zero (y z : Word) : ch 0#32 y z = z :=
  eq_of_getLsbD_eq fun k _ => by rw [getLsbD_ch, BitVec.getLsbD_zero, if_neg Bool.false_ne_true]

theorem ch_self (x y : Word) : ch x y y = y :=
  eq_of_getLsbD_eq fun k _ => by rw [getLsbD_ch, ite_self]

/-- Settles O50: the corner cases are read off the bits. -/
theorem chBits : Obligations.ChBits :=
  ⟨getLsbD_ch, fun y z => ⟨ch_allOnes y z, ch_zero y z⟩, ch_self⟩

/-! ### Majority -/

/-- The exclusive or of the three pairs: one pair, or all three, when two operands are 1. -/
theorem xor_of_pairs_iff (a b c : Bool) :
    ((a && b) ^^ (a && c) ^^ (b && c)) = true ↔ 2 ≤ a.toNat + b.toNat + c.toNat := by
  revert a b c
  decide

theorem getLsbD_maj_iff (x y z : Word) (k : Nat) :
    (maj x y z).getLsbD k = true ↔
      2 ≤ (x.getLsbD k).toNat + (y.getLsbD k).toNat + (z.getLsbD k).toNat := by
  rw [maj, getLsbD_xor, getLsbD_xor, getLsbD_and, getLsbD_and, getLsbD_and]
  exact xor_of_pairs_iff _ _ _

theorem maj_self_left (x z : Word) : maj x x z = x := by
  rw [maj, BitVec.and_self, BitVec.xor_assoc, BitVec.xor_self, BitVec.xor_zero]

theorem maj_swap_left (x y z : Word) : maj x y z = maj y x z := by
  rw [maj, maj, BitVec.and_comm x y, BitVec.xor_assoc, BitVec.xor_comm (x &&& z), ← BitVec.xor_assoc]

theorem maj_swap_right (x y z : Word) : maj x y z = maj x z y := by
  rw [maj, maj, BitVec.xor_comm (x &&& y), BitVec.and_comm y z]

/-- Settles O51: two of the operands' bits make a pair, and swapping operands permutes the pairs. -/
theorem majBits : Obligations.MajBits :=
  ⟨getLsbD_maj_iff, maj_self_left, fun x y z => ⟨maj_swap_left x y z, maj_swap_right x y z⟩⟩

/-! ### Addition -/

/-- Reducing once or at every addition gives the same word. -/
theorem add32_eq_sum (xs : List Word) : add32 xs = xs.sum := by
  induction xs with
  | nil => rfl
  | cons x xs ih => rw [add32_cons, ih, List.sum_cons]

/-- Settles O52: the list sum of words is the pairwise fold, and no sum depends on the order. -/
theorem addThirtyTwoAnyOrder : Obligations.AddThirtyTwoAnyOrder := by
  refine ⟨fun xs => BitVec.toNat_ofNat _ 32, fun xs => ?_, fun xs ys hperm => ?_⟩
  · rw [add32_eq_sum]
    exact List.sum_eq_foldl
  · rw [add32_eq_sum, add32_eq_sum]
    exact hperm.sum_eq

end Sys2Proof.Machine

/-!
PROOF. The Padder/Parser (spec/41_padder_parser.md R120 to R128): the data blocks hold the message up to its
last full block, the pad block holds the rest, and the length field takes bytes 56 to 63 of the last block.
So both shapes of `pad` are the data blocks and a tail of known bytes.
-/

namespace Sys2Proof.Machine

variable (msg : List Byte) (len : BitVec 64)

/-! ### The data blocks -/

@[simp] theorem be64_length : (be64 len).length = 8 := rfl

/-- The first k blocks of 64 bytes put back together. -/
theorem flatten_map_range_take_drop (k : Nat) :
    ((List.range k).map fun i => (msg.drop (64 * i)).take 64).flatten = msg.take (64 * k) := by
  induction k with
  | zero => rfl
  | succ k ih =>
    rw [List.range_succ, List.map_append, List.flatten_append, ih, List.map_singleton,
      List.flatten_singleton, ← List.take_add, Nat.mul_succ]

theorem dataBlocks_flatten : (dataBlocks msg).flatten = msg.take (64 * (msg.length / 64)) :=
  flatten_map_range_take_drop msg (msg.length / 64)

@[simp] theorem dataBlocks_length : (dataBlocks msg).length = msg.length / 64 := by
  rw [dataBlocks, List.length_map, List.length_range]

theorem length_of_mem_dataBlocks {b : Block} (h : b ∈ dataBlocks msg) : b.length = 64 := by
  obtain ⟨k, hk, rfl⟩ := List.mem_map.mp h
  have hlt : k < msg.length / 64 := List.mem_range.mp hk
  rw [List.length_take, List.length_drop]
  omega

/-! ### The pad block and the length field -/

theorem padBlock_length : (padBlock msg).length = 64 := by
  simp only [padBlock, List.length_append, List.length_drop, List.length_singleton, List.length_replicate]
  omega

theorem withLength_length {b : Block} (h : b.length = 64) : (withLength b len).length = 64 := by
  rw [withLength, List.length_append, List.length_take, h, be64_length]
  rfl

/-- With at most 55 bytes before the pad byte, the length field replaces zeros only (R123). -/
theorem withLength_padBlock (h : msg.length % 64 ≤ 55) :
    withLength (padBlock msg) len =
      msg.drop (64 * (msg.length / 64)) ++ [0x80#8] ++ List.replicate (55 - msg.length % 64) 0#8 ++
        be64 len := by
  have hhead : (msg.drop (64 * (msg.length / 64)) ++ [0x80#8]).length = msg.length % 64 + 1 := by
    rw [List.length_append, List.length_drop, List.length_singleton]
    omega
  have hzeros : min (56 - (msg.length % 64 + 1)) (63 - msg.length % 64) = 55 - msg.length % 64 := by omega
  rw [withLength, padBlock, List.take_append, hhead, List.take_of_length_le (by omega),
    List.take_replicate, hzeros]

theorem withLength_zeros :
    withLength (List.replicate 64 0#8) len = List.replicate 56 0#8 ++ be64 len := rfl

/-! ### The two shapes of `pad` -/

theorem pad_of_le (h : msg.length % 64 ≤ 55) :
    pad msg = dataBlocks msg ++ [withLength (padBlock msg) (bitLength msg)] :=
  if_pos h

theorem pad_of_ge (h : 56 ≤ msg.length % 64) :
    pad msg = dataBlocks msg ++ [padBlock msg, withLength (List.replicate 64 0#8) (bitLength msg)] :=
  if_neg (by omega)

theorem length_of_mem_pad {b : Block} (h : b ∈ pad msg) : b.length = 64 := by
  rcases Nat.lt_or_ge 55 (msg.length % 64) with hc | hc
  · rw [pad_of_ge msg hc, List.mem_append, List.mem_pair] at h
    rcases h with h | rfl | rfl
    · exact length_of_mem_dataBlocks msg h
    · exact padBlock_length msg
    · exact withLength_length _ List.length_replicate
  · rw [pad_of_le msg hc, List.mem_append, List.mem_singleton] at h
    rcases h with h | rfl
    · exact length_of_mem_dataBlocks msg h
    · exact withLength_length _ (padBlock_length msg)

/-! ### The layout -/

/-- A tail that begins with the bytes after the last full block completes the message. -/
theorem dataBlocks_flatten_append (tail : List Byte) :
    (dataBlocks msg).flatten ++ (msg.drop (64 * (msg.length / 64)) ++ tail) = msg ++ tail := by
  rw [dataBlocks_flatten, ← List.append_assoc, List.take_append_drop]

/-- The padded stream (R121 to R124). -/
theorem pad_flatten :
    (pad msg).flatten =
      msg ++ [0x80#8] ++ List.replicate (64 * ((msg.length + 8) / 64 + 1) - (msg.length + 9)) 0#8 ++
        be64 (bitLength msg) := by
  rcases Nat.lt_or_ge 55 (msg.length % 64) with hc | hc
  · have hzeros : 64 * ((msg.length + 8) / 64 + 1) - (msg.length + 9) = 63 - msg.length % 64 + 56 := by omega
    rw [pad_of_ge msg hc, List.flatten_append, withLength_zeros, padBlock, hzeros, List.replicate_add]
    simp only [List.flatten_cons, List.flatten_nil, List.append_nil, List.append_assoc,
      dataBlocks_flatten_append]
  · have hzeros : 64 * ((msg.length + 8) / 64 + 1) - (msg.length + 9) = 55 - msg.length % 64 := by omega
    rw [pad_of_le msg hc, List.flatten_append, withLength_padBlock _ _ hc, hzeros]
    simp only [List.flatten_singleton, List.append_assoc, dataBlocks_flatten_append]

/-- Settles O41: the zeros are counted in each of the two shapes of `pad`. -/
theorem paddedStreamLayout : Obligations.PaddedStreamLayout :=
  fun msg => ⟨pad_flatten msg, fun _ => length_of_mem_pad msg⟩

/-! ### The number of blocks -/

theorem pad_length_of_le (h : msg.length % 64 ≤ 55) : (pad msg).length = msg.length / 64 + 1 := by
  rw [pad_of_le msg h, List.length_append, dataBlocks_length, List.length_singleton]

theorem pad_length_of_ge (h : 56 ≤ msg.length % 64) : (pad msg).length = msg.length / 64 + 2 := by
  rw [pad_of_ge msg h, List.length_append, dataBlocks_length, List.length_cons, List.length_singleton]

/-- The pad byte and the length field are nine bytes more than the message. -/
theorem pad_length : (pad msg).length = (msg.length + 8) / 64 + 1 := by
  rcases Nat.lt_or_ge 55 (msg.length % 64) with hc | hc
  · rw [pad_length_of_ge msg hc]
    omega
  · rw [pad_length_of_le msg hc]
    omega

theorem pad_flatten_length : (pad msg).flatten.length = 64 * (pad msg).length := by
  have hlen : ∀ n ∈ (pad msg).map List.length, n = 64 :=
    List.forall_mem_map.mpr fun _ => length_of_mem_pad msg
  rw [List.length_flatten, List.sum_eq_card_nsmul _ 64 hlen, List.length_map, smul_eq_mul, Nat.mul_comm]

/-- Settles O42: the two counts are one quotient, and every block has 64 bytes. -/
theorem padBlockCount : Obligations.PadBlockCount := by
  intro msg
  have hcount := pad_length msg
  have hbytes := pad_flatten_length msg
  refine ⟨pad_length_of_le msg, pad_length_of_ge msg, hcount, ?_, ?_, ?_, ?_⟩
  · omega
  · omega
  · exact ⟨(pad msg).length, by omega⟩
  · omega

/-! ### Messages of whole blocks -/

/-- Nothing is left for the block of the pad byte but the pad byte. -/
theorem pad_of_mod_eq_zero (h : msg.length % 64 = 0) :
    pad msg = dataBlocks msg ++ [0x80#8 :: List.replicate 55 0#8 ++ be64 (bitLength msg)] := by
  have hrest : msg.drop (64 * (msg.length / 64)) = [] := List.drop_of_length_le (by omega)
  rw [pad_of_le msg (by omega), withLength_padBlock msg _ (by omega), hrest, h]
  rfl

theorem dataBlocks_flatten_of_mod_eq_zero (h : msg.length % 64 = 0) : (dataBlocks msg).flatten = msg := by
  rw [dataBlocks_flatten, List.take_of_length_le (by omega)]

/-- Settles O44: with no bytes past the last full block, the data blocks are the whole message. -/
theorem padOfWholeBlocks : Obligations.PadOfWholeBlocks :=
  fun msg _ hmod => ⟨pad_of_mod_eq_zero msg hmod, dataBlocks_flatten_of_mod_eq_zero msg hmod⟩

/-- The empty message is the case of no data blocks. -/
theorem pad_nil : pad [] = [0x80#8 :: List.replicate 63 0#8] :=
  pad_of_mod_eq_zero [] rfl

/-- Settles O43, its words one by one. -/
theorem padOfEmptyMessage : Obligations.PadOfEmptyMessage :=
  ⟨pad_nil, by decide⟩

end Sys2Proof.Machine

/-!
PROOF. The Message Scheduler (spec/42_scheduler.md R140 to R142): a word once appended never changes, so
word 16 + n of the schedule is the recurrence over the final schedule's own words.
-/

namespace Sys2Proof.Machine

variable (B : Vector Word 16)

/-! ### One appended word -/

/-- Appending a word keeps the words before it. -/
theorem getElem_expandTo_succ_of_lt {n i : Nat} (h : i < 16 + n) :
    (expandTo B (n + 1))[i] = (expandTo B n)[i] :=
  Vector.getElem_push_lt h

theorem add32_four (a b c d : Word) : add32 [a, b, c, d] = a + b + c + d := by
  simp only [add32_cons, add32_nil, BitVec.add_zero, BitVec.add_assoc]

/-- The appended word is the recurrence of R142 over the words before it. -/
theorem getElem_expandTo_succ_last (n : Nat) :
    (expandTo B (n + 1))[16 + n] =
      ssig1 (expandTo B n)[14 + n] + (expandTo B n)[9 + n] + ssig0 (expandTo B n)[1 + n] +
        (expandTo B n)[n] := by
  rw [← add32_four]
  exact Vector.getElem_push_eq

/-! ### The whole schedule -/

/-- However many words follow, word i stays. -/
theorem getElem_expandTo_of_le {n m i : Nat} (hnm : n ≤ m) (h : i < 16 + n) :
    (expandTo B m)[i] = (expandTo B n)[i] := by
  induction m, hnm using Nat.le_induction with
  | base => rfl
  | succ m hnm ih => rw [getElem_expandTo_succ_of_lt B (by omega), ih]

theorem getElem_expand {n i : Nat} (hn : n ≤ 48) (h : i < 16 + n) :
    (expand B)[i] = (expandTo B n)[i] :=
  getElem_expandTo_of_le B hn h

theorem getElem_expand_of_lt_sixteen {i : Nat} (h : i < 16) : (expand B)[i] = B[i] :=
  getElem_expand B (Nat.zero_le 48) h

/-- Every word the recurrence reads stands in the schedule before word 16 + n is appended. -/
theorem getElem_expand_recurrence {n : Nat} (hn : n < 48) :
    (expand B)[n + 16] =
      ssig1 (expand B)[n + 14] + (expand B)[n + 9] + ssig0 (expand B)[n + 1] + (expand B)[n] := by
  have hlast : (expand B)[n + 16] = (expandTo B (n + 1))[n + 16] := getElem_expand B (by omega) (by omega)
  have hread : ∀ {i : Nat} (h : i < 16 + n), (expand B)[i] = (expandTo B n)[i] := getElem_expand B (by omega)
  rw [hlast, hread (i := n + 14) (by omega), hread (i := n + 9) (by omega), hread (i := n + 1) (by omega),
    hread (i := n) (by omega)]
  simp only [Nat.add_comm n, getElem_expandTo_succ_last]

/-- Settles O45: the block's words are the schedule's first, and each step appends the recurrence. -/
theorem scheduleRecurrence : Obligations.ScheduleRecurrence :=
  fun B => ⟨fun i => getElem_expand_of_lt_sixteen B i.isLt, fun i => getElem_expand_recurrence B i.isLt⟩

end Sys2Proof.Machine

/-!
PROOF. The Compressor (spec/43_compressor.md R150 to R154): its sums of words are sums modulo 2^32, and the
recursion that ends with round n - 1 is the fold over rounds 0 to n - 1 in order.
-/

namespace Sys2Proof.Machine

/-! ### One round -/

theorem add32_pair (a b : Word) : add32 [a, b] = a + b := by
  rw [add32_cons, add32_cons, add32_nil, BitVec.add_zero]

theorem add32_five (a b c d e : Word) : add32 [a, b, c, d, e] = a + b + c + d + e := by
  rw [add32_cons, add32_four]
  simp only [BitVec.add_assoc]

/-- The round in the form of R153, with T1 and T2 written out. -/
theorem compressRound_mk (a b c d e f g h k w : Word) :
    compressRound #v[a, b, c, d, e, f, g, h] k w =
      #v[add32 [add32 [h, bsig1 e, ch e f g, k, w], add32 [bsig0 a, maj a b c]], a, b, c,
        add32 [d, add32 [h, bsig1 e, ch e f g, k, w]], e, f, g] := rfl

/-- Settles O46: each sum of the round is a sum modulo 2^32 of old values. -/
theorem roundEquation : Obligations.RoundEquation := by
  intro a b c d e f g h k w
  rw [compressRound_mk, add32_five, add32_pair, add32_pair, add32_pair]

/-! ### The rounds in order -/

/-- The recursion takes off the last round, as the range of round indexes does. -/
theorem roundsTo_eq_foldl (Hin : Vector Word 8) (W : Vector Word 64) {n : Nat} (hn : n ≤ 64) :
    roundsTo Hin W n hn = (List.finRange n).foldl (fun V i => compressRound V K[i] W[i]) Hin := by
  induction n with
  | zero => rfl
  | succ n ih =>
    rw [roundsTo, ih, List.finRange_succ_last, List.foldl_append, List.foldl_map]
    rfl

/-! ### The final addition -/

/-- No carry passes between words (R154). -/
theorem addState_getElem (Hin V : Vector Word 8) (j : Fin 8) :
    (addState Hin V)[j] = Hin[j] + V[j] := by
  rw [addState, Fin.getElem_fin, Vector.getElem_ofFn, add32_pair]

/-- Settles O47: the final addition, over the rounds as a fold. -/
theorem compressIs64Rounds : Obligations.CompressIs64Rounds := by
  intro Hin W j
  rw [compress, addState_getElem, roundsTo_eq_foldl]

end Sys2Proof.Machine

/-!
PROOF. The core's steps (spec/44_driver.md R172 to R175): over V and W that hold a value the core takes the
round step and the final-add step of the rules as they stand. The block that follows a PAD1 block is all
zeros, so once the length field is written its bytes are known.
-/

namespace Sys2Proof.Machine

variable {s : State}

/-! ### The parts of the final-add step -/

/-- The final addition as one vector of sums modulo 2^32 (R154). -/
theorem addState_eq_ofFn (Hin V : Vector Word 8) :
    addState Hin V = Vector.ofFn fun j => Hin[j] + V[j] := by
  simp only [addState, add32_pair]

/-- The length-only block (R124): bytes 0 to 55 zero, the length after them. -/
theorem Memory.read_withLengthField_of_clear {m : Memory} (len : BitVec 64) (hwf : m.wf = true)
    (hclear : ∀ o, m.read o = 0#8) :
    (m.withLengthField len).read =
      fun o => if 56 ≤ o.toNat then len.extractLsb' (8 * (63 - o.toNat)) 8 else 0#8 := by
  funext o
  rw [Memory.read_withLengthField hwf, hclear]
  by_cases ho : 56 ≤ o.toNat
  · have hplace : 56 - 8 * (o.toNat - 56) = 8 * (63 - o.toNat) := by omega
    rw [if_pos ho, if_pos ho, be64_getD len ⟨o.toNat - 56, by omega⟩, hplace]
  · rw [if_neg ho, if_neg ho]

/-- A load in BUSY with V and W loaded writes neither `phase` nor `vwLoaded`. -/
theorem State.load_of_busy (hphase : s.phase = .busy) (hloaded : s.vwLoaded = true) (k : Kind) :
    s.load k =
      { s with
        W := expand (blockWords s.M.read)
        V := s.H
        t := 0
        kind := k
        M := Memory.cleared
        cur := 0#6 } := by
  rw [State.load, State.stagedWords, ← hphase, ← hloaded]

/-! ### The steps -/

/-- Settles O36: the step's round is the one that t names. -/
theorem roundStepEffect : Obligations.RoundStepEffect := by
  intro s i hphase hloaded ht
  have hlt : s.t.val < 64 := by omega
  have hi : i = ⟨s.t.val, hlt⟩ := Fin.ext ht.symm
  rw [hi]
  exact coreStep_round_loaded hphase hloaded hlt

/-- Settles O37, kind by kind. After a PAD1 block the load stages zeros and the length field, and its V is
the new H. -/
theorem finalAddEffect : Obligations.FinalAddEffect := by
  intro s hphase hloaded ht
  rw [coreStep_final_loaded hphase hloaded ht]
  refine ⟨fun hkind => ?_, fun hkind => ?_, fun hkind hwf hclear => ⟨Memory.cleared, ?_, ?_⟩⟩
  · rw [State.finalAdd_data hkind, ← addState_eq_ofFn]
    rfl
  · rw [State.finalAdd_final hkind, ← addState_eq_ofFn]
    rfl
  · rw [State.finalAdd_pad1 hkind, State.load_of_busy (s := s.addToHash.setM _) hphase hloaded,
      State.setM_M, Memory.read_withLengthField_of_clear s.L hwf hclear, ← addState_eq_ofFn]
    rfl
  · exact Memory.read_cleared

end Sys2Proof.Machine

/-!
PROOF. INIT, RDSTAT and ILLEGAL words (spec/45_host_commands.md R192, R196, R198), which are never held:
INIT has one effect in every phase and leaves nothing for a second one to change, and an ILLEGAL word at the
head of the port is the next move whenever the host has the step.
-/

namespace Sys2Proof.Machine

variable {s : State}

/-! ### INIT and RDSTAT -/

/-- INIT writes constants alone, so a second INIT finds them in place (R192). -/
@[simp] theorem State.initialise_initialise (s : State) : s.initialise.initialise = s.initialise := rfl

/-- INIT gives every register that STATUS shows its reset value. -/
theorem State.initialise_status (s : State) : s.initialise.status = 0x00000001#32 :=
  calc s.initialise.status
    _ = State.reset.status := State.status_congr rfl rfl rfl rfl rfl
    _ = 0x00000001#32 := State.reset_status

theorem exec_init (s : State) : exec .init s = .next s.initialise := rfl

/-- Settles O18, with the state that INIT answers in every phase. -/
theorem initEffect : Obligations.InitEffect := by
  intro s
  refine ⟨s.initialise, exec_init s, rfl, Memory.read_cleared, ?_, s.initialise_status⟩
  rw [exec_init, State.initialise_initialise]

/-- Settles O22: RDSTAT's effect looks at no phase. -/
theorem rdstatEffect : Obligations.RdstatEffect := fun _ => rfl

/-! ### ILLEGAL words -/

/-- An ILLEGAL word is never held (R191). -/
theorem wordWaits_of_illegal {w : Command} {why : DecodeError} (h : decode w = .illegal why) :
    wordWaits w = false := by
  rw [wordWaits, h]

/-- The host's step: the reset input is low, and in BUSY the head word is not held and it is the host's
turn. -/
theorem nextMove_command {w : Command} {rest : List Command} (hport : s.port = w :: rest)
    (hreset : s.resetAsserted = false)
    (hhost : s.phase = .busy → wordWaits w = false ∧ s.turn = .host) : s.nextMove = .command w := by
  simp only [State.nextMove, hport, hreset, Bool.false_eq_true, if_false]
  by_cases hbusy : s.phase = .busy
  · obtain ⟨hfree, hturn⟩ := hhost hbusy
    simp [hbusy, hfree, hturn]
  · rw [if_neg hbusy]

/-- The step that accepts an ILLEGAL word raises ILLEGAL_CMD (R198). -/
theorem step_illegal {w : Command} {why : DecodeError} (hmove : s.nextMove = .command w)
    (hdecode : decode w = .illegal why) : step s = .next (s.accept.raise .illegalCmd) := by
  simp only [step, hmove, hdecode, execIllegal]

/-- Settles O9: the ILLEGAL word is not held, so the step is the host's in every phase, and it only accepts
the word and raises the error. -/
theorem illegalWordRaises : Obligations.IllegalWordRaises := by
  intro s w rest why hport hdecode hreset hturn
  have hmove : s.nextMove = .command w :=
    nextMove_command hport hreset fun hbusy => ⟨wordWaits_of_illegal hdecode, hturn hbusy⟩
  have hrest : rest = s.port.tail := by rw [hport, List.tail_cons]
  refine ⟨s.accept.raise .illegalCmd, step_illegal hmove hdecode, ?_⟩
  rw [hrest]
  rfl

end Sys2Proof.Machine

/-!
PROOF. Command words and assembler lines (spec/30_encoding.md R71 to R78): a word is the bitwise or of its
fields, each shifted to its place, which is how the spec writes the word of an assembler line.
-/

namespace Sys2Proof.Machine

open BitVec (ofNat_toNat setWidth_eq setWidth_setWidth setWidth_ofNat_of_le_of_lt
  setWidth_eq_extractLsb' setWidth_extractLsb'_of_le setWidth_append_append_eq_shiftLeft_setWidth_or)

/-! ### Decoding -/

/-- Settles O1: the decoder's tests and operands are the fields that the word is made of. -/
theorem decodeOfEncode : Obligations.DecodeOfEncode := fun _ => decode_encode

/-- Settles O2, row by row of the decoder. -/
theorem encodeOfDecode : Obligations.EncodeOfDecode := fun _ _ => encode_of_decode

theorem rddigIndex_val (idx : BitVec 4) : (rddigIndex idx).val = (idx.extractLsb' 0 3).toNat := rfl

/-- Settles O4: the index of both commands is idx[11:8] of the word, and their operands are its low bits. -/
theorem operandsAreWordFields : Obligations.OperandsAreWordFields := by
  refine fun w idx => ⟨fun h => ?_, fun h => ?_⟩
  · obtain ⟨-, rfl⟩ := decode_eq_rddig_iff.mp h
    rw [rddigIndex_val, idxField, ← setWidth_eq_extractLsb' (by omega), setWidth_extractLsb'_of_le (by omega)]
  · obtain ⟨-, rfl⟩ := decode_eq_rdlen_iff.mp h
    simp [rdlenLow, idxField]

/-- Settles O5, word by word. -/
theorem decodingTableWords : Obligations.DecodingTableWords := by
  refine ⟨by decide, fun w hw => ?_⟩
  fin_cases hw <;> exact ⟨_, rfl⟩

/-! ### The words of the assembler lines -/

/-- The fields of a word do not overlap, so the word is their bitwise or (R70). -/
theorem commandWord_eq_or (op idx : BitVec 4) (data : Byte) :
    commandWord op idx data = op.setWidth 16 <<< 12 ||| idx.setWidth 16 <<< 8 ||| data.setWidth 16 := by
  rw [commandWord, ← setWidth_eq (x := op ++ idx ++ data)]
  exact setWidth_append_append_eq_shiftLeft_setWidth_or

theorem encode_push (b : Byte) : encode (.push b) = 0x2000#16 ||| b.setWidth 16 :=
  commandWord_eq_or 0x2#4 0#4 b

theorem encode_rddig (idx : BitVec 4) : encode (.rddig idx) = 0x4000#16 ||| idx.setWidth 16 <<< 8 := by
  rw [encode, commandWord_eq_or]
  exact BitVec.or_zero

theorem encode_rdlen (idx : BitVec 4) : encode (.rdlen idx) = 0x6000#16 ||| idx.setWidth 16 <<< 8 := by
  rw [encode, commandWord_eq_or]
  exact BitVec.or_zero

/-- An index operand that fits in the field. -/
theorem setWidth_index {w : Nat} (i : BitVec w) (hw : w ≤ 4) :
    (BitVec.ofNat 4 i.toNat).setWidth 16 = i.setWidth 16 := by
  rw [ofNat_toNat, setWidth_setWidth (by omega)]

theorem operandBelow_of_lt {bound n : Nat} (f : Nat → List Command) (h : n < bound) :
    operandBelow bound n f = .words (f n) := if_pos h

theorem operandBelow_of_le {bound n : Nat} (f : Nat → List Command) (h : bound ≤ n) :
    operandBelow bound n f = .error .operandOutOfRange := if_neg (Nat.not_lt.mpr h)

theorem bytesBelow_of_forall_lt {bound : Nat} {bytes : List Nat} (f : List Nat → List Command)
    (h : ∀ b ∈ bytes, b < bound) : bytesBelow bound bytes f = .words (f bytes) :=
  if_pos (List.all_eq_true.mpr fun b hb => decide_eq_true (h b hb))

theorem pushWords_bytes (bs : List Byte) :
    pushWords (bs.map BitVec.toNat) = bs.map fun b => 0x2000#16 ||| b.setWidth 16 := by
  rw [pushWords, List.map_map]
  refine List.map_congr_left fun b _ => ?_
  rw [Function.comp_apply, encode_push, ofNat_toNat, setWidth_eq]

theorem pushWords_text {text : List Char} (h : ∀ c ∈ text, c.toNat < 128) :
    pushWords (text.map Char.toNat) = text.map fun c => 0x2000#16 ||| BitVec.ofNat 16 c.toNat := by
  rw [pushWords, List.map_map]
  refine List.map_congr_left fun c hc => ?_
  have hlt := h c hc
  rw [Function.comp_apply, encode_push, setWidth_ofNat_of_le_of_lt (by omega) (by omega)]

theorem assemble_pushs {text : List Char} (h : ∀ c ∈ text, c.toNat < 128) :
    assemble (.pushs text) = .words (text.map fun c => 0x2000#16 ||| BitVec.ofNat 16 c.toNat) := by
  rw [assemble, bytesBelow_of_forall_lt _ (List.forall_mem_map.mpr h), pushWords_text h]

theorem assemble_hash {text : List Char} (h : ∀ c ∈ text, c.toNat < 128) :
    assemble (.hash text) =
      .words ([0x1000#16] ++ (text.map fun c => 0x2000#16 ||| BitVec.ofNat 16 c.toNat) ++ [0x3000#16] ++
        [0x4000#16, 0x4100#16, 0x4200#16, 0x4300#16, 0x4400#16, 0x4500#16, 0x4600#16, 0x4700#16]) := by
  rw [assemble, bytesBelow_of_forall_lt _ (List.forall_mem_map.mpr h), pushWords_text h, List.append_assoc]
  rfl

/-- Settles O6, line by line. -/
theorem assemblerLineWords : Obligations.AssemblerLineWords := by
  refine ⟨rfl, rfl, rfl, fun b => ?_, fun i => ?_, fun j => ?_, fun w => ?_, fun n h => ?_, fun n h => ?_,
    fun n h => ?_, fun bs => ?_, fun _ h => ⟨assemble_pushs h, assemble_hash h⟩, rfl, rfl, fun _ => rfl⟩
  · rw [assemble, operandBelow_of_lt _ b.isLt]
    exact congrArg _ (pushWords_bytes [b])
  · rw [assemble, operandBelow_of_lt _ i.isLt, encode_rddig, setWidth_index i (by omega)]
  · rw [assemble, operandBelow_of_lt _ j.isLt, encode_rdlen, setWidth_index j (by omega)]
  · rw [assemble, operandBelow_of_lt _ w.isLt, ofNat_toNat, setWidth_eq]
  · rw [assemble, operandBelow_of_le _ h]
  · rw [assemble, operandBelow_of_le _ h]
  · rw [assemble, operandBelow_of_le _ h]
  · rw [assemble, bytesBelow_of_forall_lt _ (List.forall_mem_map.mpr fun b _ => b.isLt), pushWords_bytes]

end Sys2Proof.Machine

/-!
PROOF. The commands (spec/45_host_commands.md R192 to R197, spec/60_exceptions.md R211): what each command
answers is one equation a phase. The effects and their frames, the protocol errors and what a command does
not read follow from these equations.
-/

namespace Sys2Proof.Machine

variable {s u t : State}

/-! ### One equation a phase -/

theorem exec_push_busy {b : Byte} (h : s.phase = .busy) : exec (.push b) s = .next s := by
  simp only [exec, execPush, h]

theorem exec_push_done {b : Byte} (h : s.phase = .done) :
    exec (.push b) s = .next (s.raise .pushInDone) := by
  simp only [exec, execPush, h]

/-- Below byte 63 the byte is staged and the cursor moves on. -/
theorem exec_push_stage {b : Byte} (h : s.phase = .accept) (hc : s.cur ≠ 63#6) :
    exec (.push b) s = .next (s.appendByte b).advanceCursor := by
  simp only [exec, execPush, h, if_neg hc]

/-- Byte 63 completes the block, which is loaded. -/
theorem exec_push_load {b : Byte} (h : s.phase = .accept) (hc : s.cur = 63#6) :
    exec (.push b) s = .next ((s.appendByte b).load .data) := by
  simp only [exec, execPush, h, if_pos hc]

theorem exec_finish_busy (h : s.phase = .busy) : exec .finish s = .next s := by
  simp only [exec, execFinish, h]

theorem exec_finish_done (h : s.phase = .done) : exec .finish s = .next (s.raise .finishInDone) := by
  simp only [exec, execFinish, h]

/-- With at most 55 bytes staged the length fits behind the pad byte. -/
theorem exec_finish_final (h : s.phase = .accept) (hc : s.cur.toNat ≤ 55) :
    exec .finish s = .next ((s.setM ((s.M.padded s.cur).withLengthField s.L)).load .final) := by
  simp only [exec, execFinish, h, if_pos hc]

theorem exec_finish_pad1 (h : s.phase = .accept) (hc : 56 ≤ s.cur.toNat) :
    exec .finish s = .next ((s.setM (s.M.padded s.cur)).load .pad1) := by
  simp only [exec, execFinish, h, if_neg (Nat.not_le.mpr hc)]

theorem exec_rdstat (s : State) : exec .rdstat s = .next (s.respond (.data s.status)) := rfl

/-- The checks of RDDIG and RDLEN refuse exactly the terms that are not well formed. -/
theorem rddigIllegal_eq_not_wellFormed (idx : BitVec 4) :
    rddigIllegal idx = !(Instr.rddig idx).wellFormed := by
  revert idx
  decide

theorem rdlenIllegal_eq_not_wellFormed (idx : BitVec 4) :
    rdlenIllegal idx = !(Instr.rdlen idx).wellFormed := rfl

theorem rddigIllegal_eq_false {idx : BitVec 4} (hi : (Instr.rddig idx).WellFormed) :
    rddigIllegal idx = false := by
  rw [rddigIllegal_eq_not_wellFormed, hi, Bool.not_true]

theorem rdlenIllegal_eq_false {idx : BitVec 4} (hi : (Instr.rdlen idx).WellFormed) :
    rdlenIllegal idx = false := by
  rw [rdlenIllegal_eq_not_wellFormed, hi, Bool.not_true]

section Reads

variable {idx : BitVec 4}

theorem exec_rddig_busy (hi : (Instr.rddig idx).WellFormed) (h : s.phase = .busy) :
    exec (.rddig idx) s = .next s := by
  simp [exec, execRddig, rddigIllegal_eq_false hi, h]

theorem exec_rddig_done (hi : (Instr.rddig idx).WellFormed) (h : s.phase = .done) :
    exec (.rddig idx) s = .next (s.respond (.data s.H[rddigIndex idx])) := by
  simp [exec, execRddig, rddigIllegal_eq_false hi, h]

theorem exec_rddig_accept (hi : (Instr.rddig idx).WellFormed) (h : s.phase = .accept) :
    exec (.rddig idx) s = .next ((s.raise .rddigNotDone).respond .noValue) := by
  simp [exec, execRddig, rddigIllegal_eq_false hi, h]

theorem exec_rdlen_busy (hi : (Instr.rdlen idx).WellFormed) (h : s.phase = .busy) :
    exec (.rdlen idx) s = .next s := by
  simp [exec, execRdlen, rdlenIllegal_eq_false hi, h]

theorem exec_rdlen_of_ne_busy (hi : (Instr.rdlen idx).WellFormed) (h : s.phase ≠ .busy) :
    exec (.rdlen idx) s = .next (s.respond (.data (lengthHalf (rdlenLow idx) s.L))) := by
  cases hp : s.phase with
  | busy => exact absurd hp h
  | accept | done => simp [exec, execRdlen, rdlenIllegal_eq_false hi, hp]

end Reads

/-- Only RDDIG and RDLEN terms can be ill-formed, and these act as an ILLEGAL word (log entry 9). -/
theorem exec_of_not_wellFormed {i : Instr} (h : ¬ i.WellFormed) :
    exec i s = .next (s.raise .illegalCmd) := by
  cases i with
  | init | push | finish | rdstat => exact absurd rfl h
  | rddig idx =>
    have hill : rddigIllegal idx = true := by
      rw [rddigIllegal_eq_not_wellFormed, eq_false_of_ne_true h, Bool.not_false]
    simp only [exec, execRddig, hill, if_true, execIllegal]
  | rdlen idx =>
    have hill : rdlenIllegal idx = true := by
      rw [rdlenIllegal_eq_not_wellFormed, eq_false_of_ne_true h, Bool.not_false]
    simp only [exec, execRdlen, hill, if_true, execIllegal]

/-- The index field fails the decoder's test. -/
theorem decode_encode_of_not_wellFormed {i : Instr} (h : ¬ i.WellFormed) :
    decode (encode i) = .illegal .reservedIdx := by
  cases i with
  | init | push | finish | rdstat => exact absurd rfl h
  | rddig idx | rdlen idx =>
    simpa [decode, encode, checked, Instr.WellFormed, Instr.wellFormed] using h

/-- Settles O24: the decoder and `exec` make the same check of the index. -/
theorem illFormedReadIsIllegal : Obligations.IllFormedReadIsIllegal :=
  fun _ _ h => ⟨⟨_, decode_encode_of_not_wellFormed h⟩, exec_of_not_wellFormed h⟩

/-! ### PUSH and FINISH -/

/-- Settles O19: the staged byte is the only one that changes, and the block that byte 63 completes is the
staged block with that byte. -/
theorem pushEffect : Obligations.PushEffect := by
  intro s b hwf
  have hread : (s.M.write s.cur b).read = fun o => if o = s.cur then b else s.M.read o := by
    funext o
    rw [Memory.read_write hwf]
    exact if_congr eq_comm rfl rfl
  refine ⟨fun hp hc => ⟨s.M.write s.cur b, ?_, congrFun hread⟩,
    fun hp hc => ⟨Memory.cleared, ?_, fun _ => rfl⟩, exec_push_busy, exec_push_done⟩
  · rw [exec_push_stage hp hc, ← lengthNext_eq]
    rfl
  · rw [exec_push_load hp hc, State.load, State.stagedWords, State.appendByte_M, hread, hc, ← lengthNext_eq]
    rfl

/-- The length field as bits of L. -/
theorem Memory.read_withLengthField_bits {m : Memory} {len : BitVec 64} {o : Offset} (h : m.wf = true) :
    (m.withLengthField len).read o =
      if 56 ≤ o.toNat then len.extractLsb' (8 * (63 - o.toNat)) 8 else m.read o := by
  rw [Memory.read_withLengthField h]
  refine ite_congr rfl (fun ho => ?_) fun _ => rfl
  have hplace : 56 - 8 * (o.toNat - 56) = 8 * (63 - o.toNat) := by omega
  rw [be64_getD len ⟨o.toNat - 56, by omega⟩, hplace]

/-- Settles O20: the loaded block is the padded one, with the length written over its zeros where it
fits. -/
theorem finishEffect : Obligations.FinishEffect := by
  intro s hwf
  refine ⟨fun hp hc => ⟨Memory.cleared, ?_, fun _ => rfl⟩, fun hp hc => ⟨Memory.cleared, ?_, fun _ => rfl⟩,
    exec_finish_busy, exec_finish_done⟩
  · have hread : ((s.M.padded s.cur).withLengthField s.L).read = _ :=
      funext fun o => Memory.read_withLengthField_bits (Memory.wf_padded s.cur hwf)
    simp only [Memory.read_padded hwf] at hread
    rw [exec_finish_final hp hc, State.load, State.stagedWords, State.setM_M, hread]
    rfl
  · have hread : (s.M.padded s.cur).read = _ := funext fun o => Memory.read_padded hwf
    rw [exec_finish_pad1 hp hc, State.load, State.stagedWords, State.setM_M, hread]
    rfl

/-! ### RDDIG and RDLEN -/

/-- A word index as an index field. -/
theorem rddig_ofNat_wellFormed (i : Fin 8) : (Instr.rddig (BitVec.ofNat 4 i.val)).WellFormed := by
  revert i
  decide

theorem rddigIndex_ofNat (i : Fin 8) : rddigIndex (BitVec.ofNat 4 i.val) = i := by
  revert i
  decide

/-- Settles O21: every word index is a well-formed operand, and each phase has its equation. -/
theorem rddigEffect : Obligations.RddigEffect := by
  intro s i
  have hi := rddig_ofNat_wellFormed i
  refine ⟨fun hp => ?_, fun hp => ⟨.noValue, exec_rddig_accept hi hp⟩, exec_rddig_busy hi⟩
  simp only [exec_rddig_done hi hp, rddigIndex_ofNat]
  rfl

/-- Settles O23: both half selectors are well-formed operands, and each phase has its equation. -/
theorem rdlenEffect : Obligations.RdlenEffect :=
  fun _ => ⟨fun hp => ⟨exec_rdlen_of_ne_busy rfl hp, exec_rdlen_of_ne_busy rfl hp⟩,
    fun hp => ⟨exec_rdlen_busy rfl hp, exec_rdlen_busy rfl hp⟩⟩

/-! ### Protocol errors -/

/-- The protocol error of a well-formed command in a phase (R211). -/
def raisedBy : Instr → Phase → Option ProtocolError
  | .push _, .done => some .pushInDone
  | .finish, .done => some .finishInDone
  | .rddig _, .accept => some .rddigNotDone
  | _, _ => none

theorem raisedBy_eq_some_iff {i : Instr} {p : Phase} {e : ProtocolError} :
    raisedBy i p = some e ↔
      (e = .pushInDone ∧ (∃ b, i = .push b) ∧ p = .done) ∨ (e = .finishInDone ∧ i = .finish ∧ p = .done) ∨
      (e = .rddigNotDone ∧ (∃ idx, i = .rddig idx) ∧ p = .accept) := by
  cases i with
  | init | rdstat | rdlen => simp [raisedBy]
  | push | finish | rddig => cases p <;> simp [raisedBy, eq_comm]

/-- A well-formed command records the error that `raisedBy` names, and no other. -/
theorem exec_faults {i : Instr} (hi : i.WellFormed) (h : exec i s = .next t) :
    t.faults = s.faults ++ (raisedBy i s.phase).toList := by
  cases i with
  | init | rdstat => cases h; simp [raisedBy]
  | push b =>
    rcases execPush_cases h with ⟨hp, rfl⟩ | ⟨hp, rfl⟩ | ⟨hp, -, rfl⟩ | ⟨hp, -, rfl⟩ <;> simp [raisedBy, hp]
  | finish =>
    rcases execFinish_cases h with ⟨hp, rfl⟩ | ⟨hp, rfl⟩ | ⟨hp, -, rfl⟩ | ⟨hp, -, rfl⟩ <;> simp [raisedBy, hp]
  | rddig idx =>
    rcases execRddig_cases h with ⟨hill, -⟩ | ⟨-, hp, rfl⟩ | ⟨-, hp, rfl⟩ | ⟨-, hp, rfl⟩
    · exact absurd hill (by simp [rddigIllegal_eq_false hi])
    all_goals simp [raisedBy, hp]
  | rdlen idx =>
    rcases execRdlen_cases h with ⟨hill, -⟩ | ⟨-, -, rfl⟩ | ⟨-, -, rfl⟩
    · exact absurd hill (by simp [rdlenIllegal_eq_false hi])
    all_goals simp [raisedBy]

/-- Settles O35, from the table of `raisedBy`. -/
theorem protocolErrorCauses : Obligations.ProtocolErrorCauses := by
  refine ⟨⟨rfl, rfl, rfl, rfl⟩, fun s t i hi h => ?_⟩
  simp only [exec_faults hi h, ← raisedBy_eq_some_iff]
  cases raisedBy i s.phase with
  | none => simp
  | some e => simp

/-! ### What no command reads -/

/-- Two states that agree on all that the host can see and on what decides a command's effect on it. -/
structure State.SameVisible (s u : State) : Prop where
  H : s.H = u.H
  L : s.L = u.L
  phase : s.phase = u.phase
  cur : s.cur = u.cur
  err : s.err = u.err
  ecode : s.ecode = u.ecode
  lenOvf : s.lenOvf = u.lenOvf
  port : s.port = u.port
  responses : s.responses = u.responses

namespace State.SameVisible

theorem status (h : s.SameVisible u) : s.status = u.status :=
  State.status_congr h.phase h.err h.lenOvf h.cur h.ecode

theorem initialise (h : s.SameVisible u) : s.initialise.SameVisible u.initialise := by
  cases h
  constructor <;> simp [*]

theorem raise (h : s.SameVisible u) (e : ProtocolError) : (s.raise e).SameVisible (u.raise e) := by
  cases h
  constructor <;> simp [*]

theorem respond (h : s.SameVisible u) (r : Response) : (s.respond r).SameVisible (u.respond r) := by
  cases h
  constructor <;> simp [*]

theorem appendByte (h : s.SameVisible u) (b : Byte) : (s.appendByte b).SameVisible (u.appendByte b) := by
  cases h
  constructor <;> simp [*]

theorem advanceCursor (h : s.SameVisible u) : s.advanceCursor.SameVisible u.advanceCursor := by
  cases h
  constructor <;> simp [*]

theorem setM (h : s.SameVisible u) (m m' : Memory) : (s.setM m).SameVisible (u.setM m') := by
  cases h
  constructor <;> simp [*]

theorem load (h : s.SameVisible u) (k : Kind) : (s.load k).SameVisible (u.load k) := by
  cases h
  constructor <;> simp [*]

end State.SameVisible

/-- A command takes states that agree to states that agree: its case is chosen by the phase and the
cursor. -/
theorem exec_sameVisible (h : s.SameVisible u) (i : Instr) :
    ∃ a b, exec i s = .next a ∧ exec i u = .next b ∧ a.SameVisible b := by
  by_cases hi : i.WellFormed
  case neg => exact ⟨_, _, exec_of_not_wellFormed hi, exec_of_not_wellFormed hi, h.raise _⟩
  have hphase {p : Phase} (hp : s.phase = p) : u.phase = p := h.phase ▸ hp
  cases i with
  | init => exact ⟨_, _, exec_init s, exec_init u, h.initialise⟩
  | push b =>
    cases hp : s.phase with
    | busy => exact ⟨_, _, exec_push_busy hp, exec_push_busy (hphase hp), h⟩
    | done => exact ⟨_, _, exec_push_done hp, exec_push_done (hphase hp), h.raise _⟩
    | accept =>
      by_cases hc : s.cur = 63#6
      · exact ⟨_, _, exec_push_load hp hc, exec_push_load (hphase hp) (h.cur ▸ hc), (h.appendByte b).load _⟩
      · exact ⟨_, _, exec_push_stage hp hc, exec_push_stage (hphase hp) (h.cur ▸ hc),
          (h.appendByte b).advanceCursor⟩
  | finish =>
    cases hp : s.phase with
    | busy => exact ⟨_, _, exec_finish_busy hp, exec_finish_busy (hphase hp), h⟩
    | done => exact ⟨_, _, exec_finish_done hp, exec_finish_done (hphase hp), h.raise _⟩
    | accept =>
      rcases Nat.lt_or_ge 55 s.cur.toNat with hc | hc
      · exact ⟨_, _, exec_finish_pad1 hp hc, exec_finish_pad1 (hphase hp) (h.cur ▸ hc), (h.setM _ _).load _⟩
      · exact ⟨_, _, exec_finish_final hp hc, exec_finish_final (hphase hp) (h.cur ▸ hc), (h.setM _ _).load _⟩
  | rddig idx =>
    cases hp : s.phase with
    | busy => exact ⟨_, _, exec_rddig_busy hi hp, exec_rddig_busy hi (hphase hp), h⟩
    | done => exact ⟨_, _, exec_rddig_done hi hp, exec_rddig_done hi (hphase hp), h.H ▸ h.respond _⟩
    | accept => exact ⟨_, _, exec_rddig_accept hi hp, exec_rddig_accept hi (hphase hp), (h.raise _).respond _⟩
  | rdstat => exact ⟨_, _, exec_rdstat s, exec_rdstat u, h.status ▸ h.respond _⟩
  | rdlen idx =>
    by_cases hp : s.phase = .busy
    · exact ⟨_, _, exec_rdlen_busy hi hp, exec_rdlen_busy hi (hphase hp), h⟩
    · exact ⟨_, _, exec_rdlen_of_ne_busy hi hp, exec_rdlen_of_ne_busy hi (h.phase ▸ hp), h.L ▸ h.respond _⟩

/-- Settles O26: V, W, kind, t and M are no part of what the two states must agree on. -/
theorem hiddenStateIsUnread : Obligations.HiddenStateIsUnread := by
  intro s V W v k r m i a b ha hb
  have hsame : s.SameVisible { s with V := V, W := W, vwLoaded := v, kind := k, t := r, M := m } := by
    constructor <;> rfl
  obtain ⟨a', b', ha', hb', h⟩ := exec_sameVisible hsame i
  obtain rfl := Host.Outcome.next.inj (ha.symm.trans ha')
  obtain rfl := Host.Outcome.next.inj (hb.symm.trans hb')
  exact ⟨h.responses, h.status, h.L, h.H, h.port⟩

end Sys2Proof.Machine

/-!
PROOF. The machine's step (spec/45_host_commands.md R190, R191, spec/60_exceptions.md R216,
spec/70_reset_and_hazards.md R230 to R232): which agent moves decides which of four effects the step has.
The lemmas say when each moves; a reset, a held command, an accepted one and an idle core are then read off
the effect.
-/

namespace Sys2Proof.Machine

variable {s t : State} {w : Command} {i : Instr}

/-! ### Which agent moves -/

theorem State.resetAsserted_of_nil (h : s.resetIn = []) : s.resetAsserted = false := by
  rw [State.resetAsserted, h, List.headD_nil]

/-- A command's word waits when the command does (R191). -/
theorem wordWaits_of_command (h : decode w = .command i) : wordWaits w = waitsForCore i := by
  rw [wordWaits, h]

/-- The core moves in BUSY when the port is empty, when its head is held, and when it is the core's turn. -/
theorem nextMove_core (hbusy : s.phase = .busy) (hreset : s.resetAsserted = false)
    (hport : ∀ w ∈ s.port.head?, wordWaits w = true ∨ s.turn = .core) : s.nextMove = .core := by
  simp only [State.nextMove, hreset, hbusy, Bool.false_eq_true, if_false, if_true]
  cases hp : s.port with
  | nil => rfl
  | cons w rest =>
    rcases hport w (by simp [hp]) with hheld | hturn
    · simp only [hheld, if_true]
    · simp only [hturn, if_true, ite_self]

theorem busy_of_nextMove_core (h : s.nextMove = .core) : s.phase = .busy := by
  cases hreset : s.resetAsserted with
  | true => rw [nextMove_reset_iff.mpr hreset] at h; cases h
  | false =>
    rcases nextMove_cases hreset with ⟨-, hbusy⟩ | ⟨hm, -⟩ | ⟨w, rest, hm, -⟩
    · exact hbusy
    · rw [hm] at h; cases h
    · rw [hm] at h; cases h

/-! ### What the step then is -/

theorem step_reset (h : s.nextMove = .reset) : step s = .next s.takeReset := by
  simp only [step, h]

theorem step_core (h : s.nextMove = .core) : step s = coreStep s.tick := by
  simp only [step, h]

theorem step_command (h : s.nextMove = .command w) (hdecode : decode w = .command i) :
    step s = exec i s.accept := by
  simp only [step, h, hdecode]

theorem step_idle (h : s.nextMove = .idle) : step s = .next s.idle := by
  simp only [step, h]

/-- Settles O7: the host moves, and accepting the word is all that happens before the command's effect. -/
theorem stepRunsDecodedCommand : Obligations.StepRunsDecodedCommand := by
  intro s w rest i hport hdecode hreset hhost
  have hmove : s.nextMove = .command w := nextMove_command hport hreset fun hbusy => by
    rw [wordWaits_of_command hdecode]
    exact hhost hbusy
  have hrest : rest = s.port.tail := by rw [hport, List.tail_cons]
  refine ⟨step_command hmove hdecode, ?_⟩
  rw [hrest]
  rfl

theorem waitsForCore_iff :
    waitsForCore i = true ↔
      (∃ b, i = .push b) ∨ i = .finish ∨ (∃ idx, i = .rddig idx) ∨ ∃ idx, i = .rdlen idx := by
  cases i <;> simp [waitsForCore]

/-- Settles O8: a held command gives the core the step, and a core step writes no part of the host's side. -/
theorem heldCommandStaysAtHead : Obligations.HeldCommandStaysAtHead := by
  refine ⟨fun s w rest i hport hdecode hwaits hbusy hreset => ?_, fun _ => waitsForCore_iff,
    fun _ _ => wordWaits_of_illegal⟩
  have hheld : wordWaits w = true := (wordWaits_of_command hdecode).trans hwaits
  have hstep : step s = coreStep s.tick :=
    step_core (nextMove_core hbusy hreset (by simp [hport, hheld]))
  obtain ⟨t, ht⟩ := coreStep_next s.tick
  obtain ⟨-, herr, hecode, -, hfaults, hresponses, hport', hpending, -⟩ := coreStep_frame ht
  refine ⟨hstep, t, hstep.trans ht, hport', ?_, herr, hecode, hfaults, hresponses⟩
  rw [hpending, State.tick_pending, State.headHeld_cons hport, hbusy, hheld]
  exact Bool.or_true _

/-- Settles O12: with the reset input at the end of its list, the idle step leaves that list as it is. -/
theorem idleCoreKeepsState : Obligations.IdleCoreKeepsState := by
  intro s hport hreset hphase
  have hmove : s.nextMove = .idle := by
    simp [State.nextMove, State.resetAsserted_of_nil hreset, hport, hphase]
  have hidle : s.idle = s := by
    rw [State.idle, hreset, List.tail_nil, ← hreset]
  rw [step_idle hmove, hidle]

/-! ### Reset -/

/-- Settles O11, register by register. -/
theorem resetLeavesSpecValues : Obligations.ResetLeavesSpecValues :=
  ⟨rfl, fun _ => rfl, rfl, rfl, rfl, rfl, rfl, rfl, rfl, rfl, rfl, State.reset_status⟩

theorem State.takeReset_status (s : State) : s.takeReset.status = 0x00000001#32 :=
  (State.status_congr rfl rfl rfl rfl rfl).trans State.reset_status

/-- The pending command leaves the port (R230). -/
theorem State.portAfterReset_cons {rest : List Command} (h : s.port = w :: rest) :
    s.portAfterReset =
      if s.pending || (decide (s.phase = .busy) && wordWaits w) then rest else w :: rest := by
  rw [State.portAfterReset, State.headHeld_cons h, h, List.tail_cons]

theorem State.portAfterReset_nil (h : s.port = []) : s.portAfterReset = [] := by
  rw [State.portAfterReset, h, List.tail_nil, ite_self]

/-- Settles O10: an asserted reset is the first thing the step looks at. -/
theorem resetTakesPrecedence : Obligations.ResetTakesPrecedence := by
  intro s hreset
  exact ⟨s.takeReset, step_reset (nextMove_reset_iff.mpr hreset), rfl, fun _ => rfl, rfl, rfl, rfl, rfl, rfl,
    rfl, rfl, rfl, rfl, s.takeReset_status, State.portAfterReset_nil, fun _ _ => State.portAfterReset_cons,
    rfl, rfl, rfl, rfl, rfl⟩

/-! ### The schedule -/

/-- A step of an agent and a reset step draw the next turn (R61). -/
theorem step_draws_turn (h : step s = .next t) (hidle : s.nextMove ≠ .idle) :
    t.turn = Config.nextTurn s.clock ∧ t.clock = s.clock + 1 := by
  rcases step_cases h with ⟨-, rfl⟩ | ⟨-, hcore⟩ | ⟨hm, -⟩ | ⟨w, i, -, -, hexec⟩ | ⟨w, why, -, -, rfl⟩
  · exact ⟨rfl, rfl⟩
  · obtain ⟨-, -, -, -, -, -, -, -, -, hturn, hclock, -⟩ := coreStep_frame hcore
    exact ⟨hturn, hclock⟩
  · exact absurd hm hidle
  · obtain ⟨-, -, -, hturn, hclock, -⟩ := exec_frame hexec
    exact ⟨hturn, hclock⟩
  · exact ⟨rfl, rfl⟩

/-- Settles O56: the turn decides only where both agents have a step. -/
theorem scheduleIsDrawnAtEveryStep : Obligations.ScheduleIsDrawnAtEveryStep := by
  refine ⟨fun s w rest hbusy hport hfree hreset => ⟨fun hturn => ?_, fun hturn => ?_⟩,
    fun _ _ => step_draws_turn⟩
  · exact nextMove_core hbusy hreset fun _ _ => .inr hturn
  · exact nextMove_command hport hreset fun _ => ⟨hfree, hturn⟩

/-! ### V and W with no value -/

/-- What a core step reads where V and W hold no value: the free values, with the read recorded. -/
theorem State.settled_of_unloaded (h : s.vwLoaded = false) :
    s.settled =
      { s with
        V := Config.unspecifiedV s.clock
        W := Config.unspecifiedW s.clock
        vwLoaded := true
        noValueRead := true } := by
  simp [State.settled, h]

/-- Once V and W are ready to be read, making them ready again changes nothing. -/
theorem coreStep_settled (h : s.phase = .busy) : coreStep s.settled = coreStep s := by
  have hidem : s.settled.settled = s.settled := State.settled_of_loaded rfl
  simp only [coreStep, State.settled_phase, State.settled_t, if_pos h, hidem]

/-- Only the core's step over V and W with no value makes the record (R232). -/
theorem step_noValueRead_iff (h : step s = .next t) :
    t.noValueRead = true ↔
      s.noValueRead = true ∨ (s.nextMove = .core ∧ s.phase = .busy ∧ s.vwLoaded = false) := by
  rcases step_cases h with ⟨hm, rfl⟩ | ⟨hm, hcore⟩ | ⟨hm, rfl⟩ | ⟨w, i, hm, -, hexec⟩ | ⟨w, why, hm, -, rfl⟩
  · simp [hm]
  · obtain ⟨-, -, -, -, -, -, -, -, -, -, -, -, hread⟩ := coreStep_frame hcore
    simpa [hm] using hread
  · simp [hm]
  · obtain ⟨-, -, -, -, -, hread⟩ := exec_frame hexec
    simp [hm, hread]
  · simp [hm]

/-- Settles O16: the read goes on over the settled state. -/
theorem unloadedCoreStepReadsFreeValues : Obligations.UnloadedCoreStepReadsFreeValues := by
  refine ⟨fun s hbusy hunloaded => ?_, fun _ _ => step_noValueRead_iff⟩
  rw [← State.settled_of_unloaded hunloaded, coreStep_settled hbusy]

/-- Settles O15: the invariant has V and W loaded in BUSY, so no step makes the record. -/
theorem noStepStops : Obligations.NoStepStops := by
  refine ⟨step_next, fun s t hinv h => ?_⟩
  have hnone : ¬ (s.nextMove = .core ∧ s.phase = .busy ∧ s.vwLoaded = false) := by
    rintro ⟨-, hbusy, hunloaded⟩
    rw [hinv.loaded hbusy] at hunloaded
    cases hunloaded
  rw [Bool.eq_iff_iff, step_noValueRead_iff h, or_iff_left hnone]

end Sys2Proof.Machine

/-!
PROOF. The invariant of R37 (spec/10_state.md section 8): it speaks of M, cur, L, phase, kind and vwLoaded
alone, so most updates keep it by leaving these alone. What is left is the start of a message, a staged
byte, a block load and the final-add step.
-/

namespace Sys2Proof.Machine

variable {s t : State} {i : Instr}

/-! ### The updates -/

/-- The invariant depends on no other field. -/
theorem State.Inv.congr (h : s.Inv) (hM : t.M = s.M) (hcur : t.cur = s.cur) (hL : t.L = s.L)
    (hphase : t.phase = s.phase) (hkind : t.kind = s.kind) (hloaded : t.vwLoaded = s.vwLoaded) : t.Inv := by
  constructor <;> simp only [hM, hcur, hL, hphase, hkind, hloaded]
  exacts [h.canonical, h.acceptTail, h.acceptLength, h.dataLength, h.cursorZero, h.blockClear, h.loaded]

/-- Before the first byte of a message. -/
theorem State.inv_of_start (hphase : s.phase = .accept) (hM : s.M = Memory.cleared) (hcur : s.cur = 0#6)
    (hL : s.L = 0#64) : s.Inv := by
  constructor <;> simp [hphase, hM, hcur, hL, Memory.wf_cleared]

/-- Settles O14: reset starts a message. -/
theorem invHoldsAtReset : Obligations.InvHoldsAtReset := State.inv_of_start rfl rfl rfl rfl

/-- A block load clears M and the cursor, and V and W hold a value after it. -/
theorem State.load_inv {k : Kind} (hL : k = .data → s.L.toNat % 512 = 0) : (s.load k).Inv where
  canonical := Memory.wf_cleared
  acceptTail := nofun
  acceptLength := nofun
  dataLength _ := hL
  cursorZero _ := rfl
  blockClear _ _ := rfl
  loaded _ := rfl

/-- A byte is 8 bits more, whether L wraps or not. -/
theorem lengthNext_mod (len : BitVec 64) : (lengthNext len).toNat % 512 = (len.toNat % 512 + 8) % 512 := by
  rw [lengthNext, BitVec.toNat_ofNat]
  omega

theorem cursor_succ_toNat {c : Offset} (h : c ≠ 63#6) : (c + 1#6).toNat = c.toNat + 1 := by
  have hne : c.toNat ≠ 63 := fun hc => h (BitVec.eq_of_toNat_eq hc)
  rw [BitVec.toNat_add, BitVec.toNat_ofNat]
  omega

/-- The staged byte lies below the new cursor. -/
theorem State.Inv.stage (h : s.Inv) (hphase : s.phase = .accept) (hc : s.cur ≠ 63#6) (b : Byte) :
    (s.appendByte b).advanceCursor.Inv := by
  have hcur := cursor_succ_toNat hc
  constructor <;> simp only [State.advanceCursor_M, State.appendByte_M, State.advanceCursor_cur,
    State.appendByte_cur, State.advanceCursor_L, State.appendByte_L, State.advanceCursor_phase,
    State.appendByte_phase, hphase, hcur]
  case canonical => exact Memory.wf_write _ _ h.canonical
  case acceptTail =>
    intro _ o ho
    have hne : ¬ s.cur = o := by rintro rfl; omega
    rw [Memory.read_write h.canonical, if_neg hne]
    exact h.acceptTail hphase o (by omega)
  case acceptLength =>
    have hL := h.acceptLength hphase
    intro _
    rw [lengthNext_mod]
    omega
  all_goals simp

/-- Byte 63 makes L a whole number of blocks. -/
theorem State.Inv.stageLast (h : s.Inv) (hphase : s.phase = .accept) (hc : s.cur = 63#6) (b : Byte) :
    ((s.appendByte b).load .data).Inv := by
  have hL := h.acceptLength hphase
  rw [hc] at hL
  refine State.load_inv fun _ => ?_
  rw [State.appendByte_L, lengthNext_mod, hL]
  rfl

/-- After a data block the core is back in ACCEPT with nothing staged and L a whole number of blocks. -/
theorem State.Inv.finalAdd (h : s.Inv) (hbusy : s.phase = .busy) : s.finalAdd.Inv := by
  have hne : s.phase ≠ .accept := by rw [hbusy]; decide
  have hcur := h.cursorZero hne
  have hclear := h.blockClear hne
  cases hkind : s.kind with
  | data =>
    rw [State.finalAdd_data hkind]
    constructor <;> simp [h.canonical, hcur, hclear, h.dataLength hbusy hkind]
  | pad1 =>
    rw [State.finalAdd_pad1 hkind]
    exact State.load_inv nofun
  | final =>
    rw [State.finalAdd_final hkind]
    constructor <;> simp [h.canonical, hcur, hclear]

/-! ### The steps -/

theorem coreStep_inv (h : s.Inv) (hcore : coreStep s = .next t) : t.Inv := by
  rcases coreStep_cases hcore with ⟨-, rfl⟩ | ⟨hbusy, hlt, rfl⟩ | ⟨hbusy, -, rfl⟩
  · exact h
  · rw [State.settled_of_loaded (h.loaded hbusy)]
    exact h.congr rfl rfl rfl rfl rfl rfl
  · rw [State.settled_of_loaded (h.loaded hbusy)]
    exact h.finalAdd hbusy

theorem exec_inv (h : s.Inv) (hexec : exec i s = .next t) : t.Inv := by
  rcases exec_cases hexec with ⟨-, rfl⟩ | rfl | ⟨b, -, hphase, hc, rfl⟩ | ⟨b, -, hphase, hc, rfl⟩ |
    ⟨-, -, k, m, hk, rfl⟩ | ⟨e, rfl⟩ | ⟨r, rfl⟩ | ⟨e, r, rfl⟩
  · exact State.inv_of_start rfl rfl rfl rfl
  · exact h
  · exact h.stageLast hphase hc b
  · exact h.stage hphase hc b
  · exact State.load_inv fun hdata => absurd hdata hk
  · exact h.congr rfl rfl rfl rfl rfl rfl
  · exact h.congr rfl rfl rfl rfl rfl rfl
  · exact h.congr rfl rfl rfl rfl rfl rfl

/-- Settles O13, by the cases of the step: the inputs are no part of the invariant. -/
theorem invKeptByStep : Obligations.InvKeptByStep := by
  intro s t h hstep
  rcases step_cases hstep with ⟨-, rfl⟩ | ⟨-, hcore⟩ | ⟨-, rfl⟩ | ⟨w, i, -, -, hexec⟩ | ⟨w, why, -, -, rfl⟩
  · exact State.inv_of_start rfl rfl rfl rfl
  · exact coreStep_inv (h.congr (t := s.tick) rfl rfl rfl rfl rfl rfl) hcore
  · exact h.congr rfl rfl rfl rfl rfl rfl
  · exact exec_inv (h.congr (t := s.accept) rfl rfl rfl rfl rfl rfl) hexec
  · exact h.congr rfl rfl rfl rfl rfl rfl

end Sys2Proof.Machine

/-!
PROOF. Who writes what (spec/10_state.md R21, R26, R30 to R32, spec/44_driver.md R179,
spec/60_exceptions.md R213): for H, for L with LEN_OVF, and for ERR with ECODE and the fault record, one
lemma says what a command does to them and one what a step does. The rules on stickiness are cases of these.
-/

namespace Sys2Proof.Machine

variable {s t : State} {w : Command} {i : Instr}

/-! ### The word of the accepted command -/

theorem nextMove_eq_encode (hm : s.nextMove = .command w) (hdecode : decode w = .command i) :
    s.nextMove = .command (encode i) := by
  rw [hm, (encode_of_decode hdecode).1]

/-- The next move is one of the two that start a new message: a reset, or an accepted INIT. -/
abbrev State.StartsMessage (s : State) : Prop := s.nextMove = .reset ∨ s.nextMove = .command 0x1000#16

theorem startsMessage_of_init (hm : s.nextMove = .command w) (hdecode : decode w = .command .init) :
    s.StartsMessage :=
  .inr (nextMove_eq_encode hm hdecode)

/-! ### H -/

theorem exec_H (h : exec i s = .next t) : i = .init ∨ t.H = s.H := by
  rcases exec_cases h with ⟨rfl, -⟩ | rfl | ⟨_, -, -, -, rfl⟩ | ⟨_, -, -, -, rfl⟩ | ⟨-, -, _, _, -, rfl⟩ |
    ⟨_, rfl⟩ | ⟨_, rfl⟩ | ⟨_, _, rfl⟩ <;> simp

/-- Settles O27, by the cases of the step. -/
theorem hashWriters : Obligations.HashWriters := by
  intro s t h hH
  rcases step_cases h with ⟨hm, -⟩ | ⟨hm, hcore⟩ | ⟨-, rfl⟩ | ⟨w, i, hm, hdecode, hexec⟩ | ⟨w, why, -, -, rfl⟩
  · exact .inl hm
  · obtain ⟨-, -, -, -, -, -, -, -, -, -, -, hkeep, -⟩ := coreStep_frame hcore
    have hbusy := busy_of_nextMove_core hm
    have ht : s.t.val = 64 := by
      by_contra hne
      exact hH (hkeep (.inr hne))
    exact .inr (.inr ⟨hm, hbusy, ht⟩)
  · exact absurd rfl hH
  · rcases exec_H hexec with rfl | hkeep
    · exact .inr (.inl (nextMove_eq_encode hm hdecode))
    · exact absurd hkeep hH
  · exact absurd rfl hH

/-! ### L and LEN_OVF -/

theorem exec_length (h : exec i s = .next t) :
    (i = .init ∧ t.L = 0#64 ∧ t.lenOvf = false) ∨
    (∃ b, i = .push b ∧ s.phase = .accept ∧ t.L = s.L + 8#64 ∧
      t.lenOvf = (s.lenOvf || lengthOverflows s.L) ∧ t.err = s.err) ∨
    (t.L = s.L ∧ t.lenOvf = s.lenOvf) := by
  rcases exec_cases h with ⟨rfl, rfl⟩ | rfl | ⟨b, rfl, hp, -, rfl⟩ | ⟨b, rfl, hp, -, rfl⟩ |
    ⟨-, -, _, _, -, rfl⟩ | ⟨_, rfl⟩ | ⟨_, rfl⟩ | ⟨_, _, rfl⟩
  · exact .inl ⟨rfl, rfl, rfl⟩
  · exact .inr (.inr ⟨rfl, rfl⟩)
  · exact .inr (.inl ⟨b, rfl, hp, by simp, rfl, rfl⟩)
  · exact .inr (.inl ⟨b, rfl, hp, by simp, rfl, rfl⟩)
  · exact .inr (.inr ⟨rfl, rfl⟩)
  · exact .inr (.inr ⟨rfl, rfl⟩)
  · exact .inr (.inr ⟨rfl, rfl⟩)
  · exact .inr (.inr ⟨rfl, rfl⟩)

/-- A step starts a message, accepts a PUSH in ACCEPT, or leaves L and LEN_OVF alone. -/
theorem step_length (h : step s = .next t) :
    (s.StartsMessage ∧ t.L = 0#64 ∧ t.lenOvf = false) ∨
    ((∃ b, s.nextMove = .command (encode (.push b))) ∧ s.phase = .accept ∧ t.L = s.L + 8#64 ∧
      t.lenOvf = (s.lenOvf || lengthOverflows s.L) ∧ t.err = s.err) ∨
    (t.L = s.L ∧ t.lenOvf = s.lenOvf) := by
  rcases step_cases h with
    ⟨hm, rfl⟩ | ⟨-, hcore⟩ | ⟨-, rfl⟩ | ⟨w, i, hm, hdecode, hexec⟩ | ⟨w, why, -, -, rfl⟩
  · exact .inl ⟨.inl hm, rfl, rfl⟩
  · obtain ⟨hL, -, -, hovf, -⟩ := coreStep_frame hcore
    exact .inr (.inr ⟨hL, hovf⟩)
  · exact .inr (.inr ⟨rfl, rfl⟩)
  · rcases exec_length hexec with ⟨rfl, hL, hovf⟩ | ⟨b, rfl, hpush⟩ | hkeep
    · exact .inl ⟨startsMessage_of_init hm hdecode, hL, hovf⟩
    · exact .inr (.inl ⟨⟨b, nextMove_eq_encode hm hdecode⟩, hpush⟩)
    · exact .inr (.inr hkeep)
  · exact .inr (.inr ⟨rfl, rfl⟩)

/-- Settles O28: a step that changes L is one of the first two cases. -/
theorem bitLengthWriters : Obligations.BitLengthWriters := by
  intro s t h hL
  rcases step_length h with ⟨hstart, hzero, -⟩ | ⟨hpush, hp, hadd, -⟩ | ⟨hkeep, -⟩
  · exact .inr ⟨hstart.symm, hzero⟩
  · exact .inl ⟨hpush, hp, hadd⟩
  · exact absurd hkeep hL

/-- Settles O31: an accepted PUSH can only set LEN_OVF. -/
theorem lenOvfSticky : Obligations.LenOvfSticky := by
  intro s t h
  rcases step_length h with ⟨hstart, -, hclear⟩ | ⟨hpush, hp, -, hovf, herr⟩ | ⟨-, hkeep⟩
  · exact ⟨fun _ _ => hstart, fun _ hset => absurd hset (by simp [hclear])⟩
  · refine ⟨fun hold hclear => absurd hclear (by simp [hovf, hold]), fun hold hset => ⟨hpush, hp, ?_, herr⟩⟩
    rw [hovf, hold, Bool.false_or] at hset
    exact of_decide_eq_true hset
  · exact ⟨fun hold hclear => absurd hclear (by simp [hkeep, hold]),
      fun hold hset => absurd hset (by simp [hkeep, hold])⟩

/-! ### ERR, ECODE and the fault record -/

theorem exec_error (h : exec i s = .next t) :
    (i = .init ∧ t.err = false ∧ t.ecode = 0#4 ∧ t.faults = s.faults) ∨
    (t.err = s.err ∧ t.ecode = s.ecode ∧ t.faults = s.faults) ∨
    ∃ e : ProtocolError, t.err = true ∧ t.ecode = (if s.err then s.ecode else e.code) ∧
      t.faults = s.faults ++ [e] := by
  rcases exec_cases h with ⟨rfl, rfl⟩ | rfl | ⟨_, -, -, -, rfl⟩ | ⟨_, -, -, -, rfl⟩ |
    ⟨-, -, _, _, -, rfl⟩ | ⟨e, rfl⟩ | ⟨_, rfl⟩ | ⟨e, _, rfl⟩
  · exact .inl ⟨rfl, rfl, rfl, rfl⟩
  · exact .inr (.inl ⟨rfl, rfl, rfl⟩)
  · exact .inr (.inl ⟨rfl, rfl, rfl⟩)
  · exact .inr (.inl ⟨rfl, rfl, rfl⟩)
  · exact .inr (.inl ⟨rfl, rfl, rfl⟩)
  · exact .inr (.inr ⟨e, rfl, rfl, rfl⟩)
  · exact .inr (.inl ⟨rfl, rfl, rfl⟩)
  · exact .inr (.inr ⟨e, rfl, rfl, rfl⟩)

/-- A step starts a message, leaves the error registers alone, or raises one protocol error. -/
theorem step_error (h : step s = .next t) :
    (s.StartsMessage ∧ t.err = false ∧ t.ecode = 0#4 ∧ t.faults = s.faults) ∨
    (t.err = s.err ∧ t.ecode = s.ecode ∧ t.faults = s.faults) ∨
    ∃ e : ProtocolError, t.err = true ∧ t.ecode = (if s.err then s.ecode else e.code) ∧
      t.faults = s.faults ++ [e] := by
  rcases step_cases h with
    ⟨hm, rfl⟩ | ⟨-, hcore⟩ | ⟨-, rfl⟩ | ⟨w, i, hm, hdecode, hexec⟩ | ⟨w, why, -, -, rfl⟩
  · exact .inl ⟨.inl hm, rfl, rfl, rfl⟩
  · obtain ⟨-, herr, hecode, -, hfaults, -⟩ := coreStep_frame hcore
    exact .inr (.inl ⟨herr, hecode, hfaults⟩)
  · exact .inr (.inl ⟨rfl, rfl, rfl⟩)
  · rcases exec_error hexec with ⟨rfl, hclear⟩ | hkeep | hraise
    · exact .inl ⟨startsMessage_of_init hm hdecode, hclear⟩
    · exact .inr (.inl hkeep)
    · exact .inr (.inr hraise)
  · exact .inr (.inr ⟨.illegalCmd, rfl, rfl, rfl⟩)

/-- Settles O29: only a step that starts a message gives ERR the value 0. -/
theorem errClearedOnlyByInitOrReset : Obligations.ErrClearedOnlyByInitOrReset := by
  intro s t h hold hclear
  rcases step_error h with ⟨hstart, -⟩ | ⟨hkeep, -⟩ | ⟨e, hset, -⟩
  · exact hstart
  · simp [hkeep, hold] at hclear
  · simp [hset] at hclear

/-- Settles O30: a raised error writes its code only over an ERR of 0. -/
theorem ecodeKeepsFirstCause : Obligations.EcodeKeepsFirstCause := by
  intro s t h
  rcases step_error h with ⟨-, herr, hecode, -⟩ | ⟨herr, hecode, -⟩ | ⟨e, herr, hecode, hfaults⟩
  · simp [herr, hecode]
  · refine ⟨fun _ _ => hecode, fun hnew hset => ?_, fun _ _ hne => absurd hecode hne⟩
    simp [herr, hnew] at hset
  · refine ⟨fun hold _ => by rw [hecode, if_pos hold], fun hnew _ => ⟨e, hfaults, ?_⟩, fun _ hclear => ?_⟩
    · rw [hecode, hnew, if_neg Bool.false_ne_true]
    · simp [herr] at hclear

theorem faulted_iff : s.faulted = true ↔ s.faults ≠ [] ∨ s.noValueRead = true := by
  simp [State.faulted]

theorem final_of_faulted (h : s.faulted = true) : s.final = false := by
  simp [State.final, h]

/-- Settles O32: no case of the step takes from the fault records. -/
theorem faultRecordOnlyGrows : Obligations.FaultRecordOnlyGrows := by
  refine ⟨fun s t h => ?_, fun s t h hread => (step_noValueRead_iff h).mpr (.inl hread), fun _ => faulted_iff,
    fun _ => final_of_faulted, fun s t idx hi hp h => ?_⟩
  · rcases step_error h with ⟨-, -, -, hfaults⟩ | ⟨-, -, hfaults⟩ | ⟨e, herr, -, hfaults⟩
    · exact .inl hfaults
    · exact .inl hfaults
    · exact .inr ⟨e, hfaults, herr⟩
  · obtain rfl := Host.Outcome.next.inj (h.symm.trans (exec_rddig_accept hi hp))
    rfl

/-! ### DONE -/

/-- In DONE a command other than INIT raises an error, answers the host, or does nothing. -/
theorem exec_done (hdone : s.phase = .done) (hi : i ≠ .init) (h : exec i s = .next t) :
    t.phase = .done ∧ t.H = s.H ∧ t.L = s.L ∧ t.M = s.M ∧ t.cur = s.cur := by
  have hne : s.phase ≠ .accept := by rw [hdone]; decide
  rcases exec_cases h with ⟨rfl, -⟩ | rfl | ⟨_, -, hp, -⟩ | ⟨_, -, hp, -⟩ | ⟨-, hp, -⟩ | ⟨_, rfl⟩ | ⟨_, rfl⟩ |
    ⟨_, _, rfl⟩
  · exact absurd rfl hi
  · exact ⟨hdone, rfl, rfl, rfl, rfl⟩
  · exact absurd hp hne
  · exact absurd hp hne
  · exact absurd hp hne
  · exact ⟨hdone, rfl, rfl, rfl, rfl⟩
  · exact ⟨hdone, rfl, rfl, rfl, rfl⟩
  · exact ⟨hdone, rfl, rfl, rfl, rfl⟩

/-- Settles O33: the core has no step in DONE, and no command but INIT touches what the statement names. -/
theorem doneIsStable : Obligations.DoneIsStable := by
  intro s t hdone h hreset hinit
  rcases step_cases h with ⟨hm, -⟩ | ⟨hm, -⟩ | ⟨-, rfl⟩ | ⟨w, i, hm, hdecode, hexec⟩ | ⟨w, why, -, -, rfl⟩
  · exact absurd hm hreset
  · rw [busy_of_nextMove_core hm] at hdone
    cases hdone
  · exact ⟨hdone, rfl, rfl, rfl, rfl⟩
  · refine exec_done (s := s.accept) hdone ?_ hexec
    rintro rfl
    exact hinit (nextMove_eq_encode hm hdecode)
  · exact ⟨hdone, rfl, rfl, rfl, rfl⟩

end Sys2Proof.Machine

/-!
PROOF. The end of a BUSY period (spec/44_driver.md R176): the commands in the port and the core steps that
the core still needs are finitely many, and every step in BUSY uses up one of them or leaves BUSY.
-/

namespace Sys2Proof.Machine

variable {s t : State} {i : Instr}

/-- The core steps that follow the block of a kind in the same BUSY period (R177): those of the length-only
block after a PAD1 block. -/
def Kind.coreStepsAfter : Kind → Nat
  | .data => 0
  | .pad1 => 65
  | .final => 0

/-- The core steps that a BUSY core still needs: the rest of its block and what follows it. -/
def State.coreStepsLeft (s : State) : Nat := 65 - s.t.val + s.kind.coreStepsAfter

theorem State.coreStepsLeft_pos (s : State) : 0 < s.coreStepsLeft := by
  rw [State.coreStepsLeft]
  omega

theorem State.coreStepsLeft_le (s : State) : s.coreStepsLeft ≤ 130 := by
  rw [State.coreStepsLeft]
  cases s.kind <;> simp only [Kind.coreStepsAfter] <;> omega

/-- A core step in BUSY is one of those left. -/
theorem coreStep_coreStepsLeft (hbusy : s.phase = .busy) (h : coreStep s = .next t) :
    t.phase ≠ .busy ∨ t.coreStepsLeft < s.coreStepsLeft := by
  rcases coreStep_cases h with ⟨hp, -⟩ | ⟨-, hlt, rfl⟩ | ⟨-, ht, rfl⟩
  · exact absurd hbusy hp
  · right
    simp only [State.coreStepsLeft, State.roundStep_t, State.roundStep_kind, State.settled_kind, Fin.val_succ]
    omega
  · cases hkind : s.kind with
    | data => exact .inl (by simp [State.finalAdd_data (s := s.settled) hkind])
    | pad1 => exact .inr (by simp [State.finalAdd_pad1 (s := s.settled) hkind, State.coreStepsLeft, hkind, ht,
        Kind.coreStepsAfter])
    | final => exact .inl (by simp [State.finalAdd_final (s := s.settled) hkind])

/-- A command accepted in BUSY leaves BUSY, as INIT does, or leaves the core's progress alone. -/
theorem exec_coreStepsLeft (hbusy : s.phase = .busy) (h : exec i s = .next t) :
    t.phase ≠ .busy ∨ t.coreStepsLeft = s.coreStepsLeft := by
  have hne : s.phase ≠ .accept := by rw [hbusy]; decide
  rcases exec_cases h with ⟨-, rfl⟩ | rfl | ⟨_, -, hp, -⟩ | ⟨_, -, hp, -⟩ | ⟨-, hp, -⟩ | ⟨_, rfl⟩ | ⟨_, rfl⟩ |
    ⟨_, _, rfl⟩
  · exact .inl (by simp)
  · exact .inr rfl
  · exact absurd hp hne
  · exact absurd hp hne
  · exact absurd hp hne
  · exact .inr rfl
  · exact .inr rfl
  · exact .inr rfl

/-- What is left of a BUSY period: each command in the port and each core step may take one step. -/
def State.busyStepsLeft (s : State) : Nat := s.port.length + s.coreStepsLeft

/-- With no reset to come, a step in BUSY leaves BUSY or uses up one of the steps left. -/
theorem step_busyStepsLeft (hbusy : s.phase = .busy) (hreset : s.resetIn = []) (h : step s = .next t) :
    t.phase ≠ .busy ∨ (t.resetIn = [] ∧ t.busyStepsLeft < s.busyStepsLeft) := by
  have htail : s.resetIn.tail = [] := by rw [hreset, List.tail_nil]
  have hlow : s.resetAsserted = false := State.resetAsserted_of_nil hreset
  rcases nextMove_cases hlow with ⟨hm, -⟩ | ⟨-, hne, -⟩ | ⟨w, rest, hm, hport, -⟩
  · rw [step_core hm] at h
    obtain ⟨-, -, -, -, -, -, hport, -, hresetIn, -⟩ := coreStep_frame h
    refine (coreStep_coreStepsLeft (s := s.tick) hbusy h).imp_right fun hlt => ⟨hresetIn.trans htail, ?_⟩
    rw [State.busyStepsLeft, hport]
    exact Nat.add_lt_add_left hlt _
  · exact absurd hbusy hne
  · have hshort : s.accept.port.length < s.port.length := by simp [hport]
    cases hdecode : decode w with
    | command i =>
      rw [step_command hm hdecode] at h
      obtain ⟨hport', -, hresetIn, -⟩ := exec_frame h
      refine (exec_coreStepsLeft (s := s.accept) hbusy h).imp_right fun hkeep => ⟨hresetIn.trans htail, ?_⟩
      rw [State.busyStepsLeft, hport', hkeep]
      exact Nat.add_lt_add_right hshort _
    | illegal why =>
      rw [step_illegal hm hdecode] at h
      cases h
      exact .inr ⟨htail, Nat.add_lt_add_right hshort _⟩

theorem steps_succ (h : step s = .next t) (n : Nat) : steps (n + 1) s = steps n t := by
  simp only [steps, h]

/-- By induction on a bound of the steps left. -/
theorem busy_ends {n : Nat} (hbusy : s.phase = .busy) (hreset : s.resetIn = []) (hn : s.busyStepsLeft ≤ n) :
    ∃ k t, k ≤ n ∧ steps k s = .next t ∧ t.phase ≠ .busy := by
  induction n generalizing s with
  | zero =>
    have hpos := s.coreStepsLeft_pos
    rw [State.busyStepsLeft] at hn
    omega
  | succ n ih =>
    obtain ⟨t, ht⟩ := step_next s
    by_cases hbusy' : t.phase = .busy
    · obtain ⟨hreset', hlt⟩ := (step_busyStepsLeft hbusy hreset ht).resolve_left (not_not_intro hbusy')
      obtain ⟨k, u, hk, hu, hleft⟩ := ih hbusy' hreset' (by omega)
      exact ⟨k + 1, u, by omega, (steps_succ ht k).trans hu, hleft⟩
    · exact ⟨1, t, by omega, steps_succ ht 0, hbusy'⟩

/-- Settles O17: at most 130 core steps are left of a BUSY period. -/
theorem busyPeriodEnds : Obligations.BusyPeriodEnds := by
  intro s _ hbusy hreset
  exact busy_ends hbusy hreset (Nat.add_le_add_left s.coreStepsLeft_le _)

end Sys2Proof.Machine

/-!
PROOF. Core steps in a row (spec/44_driver.md R177): n core steps from a block just loaded are the
compressor's first n rounds, and the 65th completes them to `compress`. A FINISH takes one block or two.
-/

namespace Sys2Proof.Machine

variable {s t : State}

/-! ### One block -/

/-- A block has just been loaded (R172). -/
structure State.BlockStart (s : State) : Prop where
  phase : s.phase = .busy
  loaded : s.vwLoaded = true
  index : s.t = 0
  vars : s.V = s.H

theorem State.load_blockStart (s : State) (k : Kind) : (s.load k).BlockStart := ⟨rfl, rfl, rfl, rfl⟩

/-- A block after n of its rounds. -/
def State.afterRounds (s : State) (n : Nat) (hn : n ≤ 64) : State :=
  { s with
    V := roundsTo s.H s.W n hn
    t := ⟨n, Nat.lt_succ_of_le hn⟩ }

/-- A block after all its rounds, with V added into H. -/
def State.hashed (s : State) : State := (s.afterRounds 64 (Nat.le_refl 64)).addToHash

/-- All rounds and the final addition are the compressor (R150). -/
@[simp] theorem State.hashed_H (s : State) : s.hashed.H = compress s.H s.W := rfl
@[simp] theorem State.hashed_L (s : State) : s.hashed.L = s.L := rfl
@[simp] theorem State.hashed_err (s : State) : s.hashed.err = s.err := rfl
@[simp] theorem State.hashed_port (s : State) : s.hashed.port = s.port := rfl

theorem State.afterRounds_zero (h : s.BlockStart) : s.afterRounds 0 (Nat.zero_le 64) = s := by
  have hsame {V : Vector Word 8} {i : Fin 65} (hV : V = s.V) (hi : i = s.t) :
      { s with V := V, t := i } = s := by
    rw [hV, hi]
  exact hsame h.vars.symm h.index.symm

theorem coreSteps_one (s : State) : coreSteps 1 s = coreStep s := by
  obtain ⟨t, ht⟩ := coreStep_next s
  simp only [coreSteps, ht]

theorem coreSteps_succ {n : Nat} (h : coreSteps n s = .next t) : coreSteps (n + 1) s = coreStep t := by
  rw [coreSteps_add h, coreSteps_one]

/-- The rounds of a block, one core step each. -/
theorem coreSteps_rounds (h : s.BlockStart) {n : Nat} (hn : n ≤ 64) :
    coreSteps n s = .next (s.afterRounds n hn) := by
  induction n with
  | zero => rw [State.afterRounds_zero h, coreSteps]
  | succ n ih =>
    rw [coreSteps_succ (ih (Nat.le_of_succ_le hn)),
      coreStep_round_loaded (s := s.afterRounds n _) h.phase h.loaded hn]
    rfl

/-- The 65th core step of a block is its final-add step. -/
theorem coreSteps_block (h : s.BlockStart) :
    coreSteps 65 s = .next (s.afterRounds 64 (Nat.le_refl 64)).finalAdd := by
  rw [coreSteps_succ (coreSteps_rounds h (Nat.le_refl 64)),
    coreStep_final_loaded (s := s.afterRounds 64 _) h.phase h.loaded rfl]

theorem coreSteps_data (h : s.BlockStart) (hkind : s.kind = .data) :
    coreSteps 65 s = .next (s.hashed.setPhase .accept) := by
  rw [coreSteps_block h, State.finalAdd_data (s := s.afterRounds 64 _) hkind]
  rfl

theorem coreSteps_final (h : s.BlockStart) (hkind : s.kind = .final) :
    coreSteps 65 s = .next (s.hashed.setPhase .done) := by
  rw [coreSteps_block h, State.finalAdd_final (s := s.afterRounds 64 _) hkind]
  rfl

/-- A PAD1 block is followed by the length-only block (R175). -/
theorem coreSteps_pad1 (h : s.BlockStart) (hkind : s.kind = .pad1) :
    coreSteps 65 s = .next ((s.hashed.setM (s.M.withLengthField s.L)).load .final) := by
  rw [coreSteps_block h, State.finalAdd_pad1 (s := s.afterRounds 64 _) hkind]
  rfl

theorem coreSteps_busy (h : s.BlockStart) {n : Nat} (hn : n < 65) :
    ∃ u, coreSteps n s = .next u ∧ u.phase = .busy :=
  ⟨_, coreSteps_rounds h (Nat.le_of_lt_succ hn), h.phase⟩

/-- Settles O38: the rounds leave the core BUSY, and the final-add step leaves by the block's kind. -/
theorem blockTakes65CoreSteps : Obligations.BlockTakes65CoreSteps := by
  intro s hbusy hloaded ht hV hkind
  have hstart : s.BlockStart := ⟨hbusy, hloaded, ht, hV⟩
  refine ⟨fun n hn => ⟨_, coreSteps_rounds hstart hn, hbusy, rfl⟩, ?_⟩
  cases hk : s.kind with
  | data => exact ⟨_, coreSteps_data hstart hk, rfl, rfl⟩
  | pad1 => exact absurd hk hkind
  | final => exact ⟨_, coreSteps_final hstart hk, rfl, rfl⟩

/-! ### From FINISH to DONE -/

/-- The PAD1 block and the length-only block in a row. -/
theorem coreSteps_pad1_final (h : s.BlockStart) (hkind : s.kind = .pad1) :
    coreSteps 130 s =
      .next (((s.hashed.setM (s.M.withLengthField s.L)).load .final).hashed.setPhase .done) := by
  rw [show 130 = 65 + 65 from rfl, coreSteps_add (coreSteps_pad1 h hkind)]
  exact coreSteps_final (State.load_blockStart _ _) rfl

theorem coreSteps_pad1_busy (h : s.BlockStart) (hkind : s.kind = .pad1) {n : Nat} (hn : n < 130) :
    ∃ u, coreSteps n s = .next u ∧ u.phase = .busy := by
  rcases Nat.lt_or_ge n 65 with hfirst | hsecond
  · exact coreSteps_busy h hfirst
  · obtain ⟨m, rfl⟩ := Nat.exists_eq_add_of_le hsecond
    rw [coreSteps_add (coreSteps_pad1 h hkind)]
    exact coreSteps_busy (State.load_blockStart _ _) (by omega)

/-- Settles O39: what FINISH loads is one block, or a PAD1 block with one more to follow. -/
theorem finishReachesDone : Obligations.FinishReachesDone := by
  intro s t hp hfinish
  refine ⟨fun hc => ?_, fun hc => ?_⟩
  · obtain rfl := Host.Outcome.next.inj (hfinish.symm.trans (exec_finish_final hp hc))
    have hstart := State.load_blockStart (s.setM ((s.M.padded s.cur).withLengthField s.L)) .final
    exact ⟨fun _ => coreSteps_busy hstart, _, coreSteps_final hstart rfl, rfl⟩
  · obtain rfl := Host.Outcome.next.inj (hfinish.symm.trans (exec_finish_pad1 hp hc))
    have hstart := State.load_blockStart (s.setM (s.M.padded s.cur)) .pad1
    exact ⟨fun _ => coreSteps_pad1_busy hstart rfl, _, coreSteps_pad1_final hstart rfl, rfl⟩

end Sys2Proof.Machine

/-!
PROOF. The machine while the next word is held (spec/45_host_commands.md R191): its steps are the core's,
whatever the schedule, because a core step over loaded V and W neither reads nor writes the inputs.
-/

namespace Sys2Proof.Machine

variable {s t : State}

/-- The state with a low reset input and any schedule. -/
def State.withInputs (s : State) (pending : Bool) (turn : Agent) (clock : Nat) : State :=
  { s with
    resetIn := []
    pending := pending
    turn := turn
    clock := clock }

theorem State.withInputs_self (h : s.resetIn = []) : s.withInputs s.pending s.turn s.clock = s := by
  rw [State.withInputs, ← h]

@[simp] theorem State.withInputs_H (s : State) (p : Bool) (a : Agent) (c : Nat) :
    (s.withInputs p a c).H = s.H := rfl
@[simp] theorem State.withInputs_L (s : State) (p : Bool) (a : Agent) (c : Nat) :
    (s.withInputs p a c).L = s.L := rfl
@[simp] theorem State.withInputs_err (s : State) (p : Bool) (a : Agent) (c : Nat) :
    (s.withInputs p a c).err = s.err := rfl
@[simp] theorem State.withInputs_port (s : State) (p : Bool) (a : Agent) (c : Nat) :
    (s.withInputs p a c).port = s.port := rfl

/-- A step draws the schedule's next choice and may find the head of the port held (R61, R191). -/
theorem State.tick_withInputs (s : State) (p : Bool) (a : Agent) (c : Nat) :
    (s.withInputs p a c).tick = s.withInputs (p || s.headHeld) (Config.nextTurn c) (c + 1) := rfl

section Inputs

variable (p : Bool) (a : Agent) (c : Nat)

theorem State.finalAdd_withInputs (s : State) :
    (s.withInputs p a c).finalAdd = s.finalAdd.withInputs p a c := by
  cases hkind : s.kind with
  | data =>
    rw [State.finalAdd_data hkind, State.finalAdd_data (s := s.withInputs p a c) hkind]
    rfl
  | pad1 =>
    rw [State.finalAdd_pad1 hkind, State.finalAdd_pad1 (s := s.withInputs p a c) hkind]
    rfl
  | final =>
    rw [State.finalAdd_final hkind, State.finalAdd_final (s := s.withInputs p a c) hkind]
    rfl

/-- A core step over loaded V and W reads no input and writes none. -/
theorem coreStep_withInputs (hloaded : s.vwLoaded = true) (h : coreStep s = .next t) :
    coreStep (s.withInputs p a c) = .next (t.withInputs p a c) := by
  rcases coreStep_cases h with ⟨hp, rfl⟩ | ⟨hbusy, hlt, rfl⟩ | ⟨hbusy, ht, rfl⟩
  · exact coreStep_idle hp
  · rw [State.settled_of_loaded hloaded]
    exact coreStep_round_loaded (s := s.withInputs p a c) hbusy hloaded hlt
  · rw [State.settled_of_loaded hloaded, ← State.finalAdd_withInputs]
    exact coreStep_final_loaded (s := s.withInputs p a c) hbusy hloaded ht

end Inputs

/-- No core step takes the values of V and W away. -/
theorem coreStep_loaded (hloaded : s.vwLoaded = true) (h : coreStep s = .next t) : t.vwLoaded = true := by
  rcases coreStep_cases h with ⟨-, rfl⟩ | ⟨-, -, rfl⟩ | ⟨-, -, rfl⟩
  · exact hloaded
  · rfl
  · cases hkind : s.kind with
    | data => rw [State.finalAdd_data (s := s.settled) hkind]; rfl
    | pad1 => rw [State.finalAdd_pad1 (s := s.settled) hkind]; rfl
    | final => rw [State.finalAdd_final (s := s.settled) hkind]; rfl

/-- While the core is BUSY and no word at the head of the port can be accepted, the machine's steps are the
core's, under every schedule. -/
theorem steps_withInputs_of_coreSteps {n : Nat} (hloaded : s.vwLoaded = true)
    (hwaits : ∀ w ∈ s.port.head?, wordWaits w = true)
    (hbusy : ∀ m < n, ∃ u, coreSteps m s = .next u ∧ u.phase = .busy) (h : coreSteps n s = .next t)
    (p : Bool) (a : Agent) (c : Nat) :
    ∃ p' a' c', steps n (s.withInputs p a c) = .next (t.withInputs p' a' c') := by
  induction n generalizing s p a c with
  | zero =>
    cases h
    exact ⟨p, a, c, rfl⟩
  | succ n ih =>
    obtain ⟨u, hu⟩ := coreStep_next s
    have hcore (m : Nat) : coreSteps (m + 1) s = coreSteps m u := by simp only [coreSteps, hu]
    have hphase : s.phase = .busy := by
      obtain ⟨v, hv, hphase⟩ := hbusy 0 (Nat.succ_pos n)
      cases hv
      exact hphase
    have hmove : (s.withInputs p a c).nextMove = .core :=
      nextMove_core hphase rfl fun w hw => .inl (hwaits w hw)
    have hstep := step_core hmove
    rw [State.tick_withInputs, coreStep_withInputs _ _ _ hloaded hu] at hstep
    obtain ⟨-, -, -, -, -, -, hport, -⟩ := coreStep_frame hu
    rw [steps_succ hstep]
    refine ih (coreStep_loaded hloaded hu) (by rwa [hport]) (fun m hm => ?_) ((hcore n).symm.trans h) _ _ _
    rw [← hcore]
    exact hbusy (m + 1) (Nat.succ_lt_succ hm)

theorem steps_of_coreSteps {n : Nat} (hreset : s.resetIn = []) (hloaded : s.vwLoaded = true)
    (hwaits : ∀ w ∈ s.port.head?, wordWaits w = true)
    (hbusy : ∀ m < n, ∃ u, coreSteps m s = .next u ∧ u.phase = .busy) (h : coreSteps n s = .next t) :
    ∃ p a c, steps n s = .next (t.withInputs p a c) := by
  have hsteps := steps_withInputs_of_coreSteps hloaded hwaits hbusy h s.pending s.turn s.clock
  rwa [State.withInputs_self hreset] at hsteps

end Sys2Proof.Machine

/-!
PROOF. A message byte by byte (spec/41_padder_parser.md R121 to R124): what one byte more does to the full
blocks, to the bytes after them and to the bit length, and the staging block M as the list of the bytes
written to it so far.
-/

namespace Sys2Proof.Machine

variable {msg : List Byte}

/-! ### A message with one byte more -/

/-- The message bytes after the last full block (R121). -/
def lastBytes (msg : List Byte) : List Byte := msg.drop (64 * (msg.length / 64))

theorem lastBytes_length (msg : List Byte) : (lastBytes msg).length = msg.length % 64 := by
  rw [lastBytes, List.length_drop]
  omega

theorem padBlock_eq (msg : List Byte) :
    padBlock msg = lastBytes msg ++ 0x80#8 :: List.replicate (63 - msg.length % 64) 0#8 := by
  rw [padBlock, lastBytes, List.append_assoc, List.singleton_append]

/-- The full blocks of a message do not depend on the bytes after them. -/
theorem map_range_take_append (msg tail : List Byte) {n : Nat} (hn : 64 * n ≤ msg.length) :
    ((List.range n).map fun k => ((msg ++ tail).drop (64 * k)).take 64) =
      (List.range n).map fun k => (msg.drop (64 * k)).take 64 := by
  refine List.map_congr_left fun k hk => ?_
  have hlt : k < n := List.mem_range.mp hk
  have hfull : 64 ≤ (msg.drop (64 * k)).length := by
    rw [List.length_drop]
    omega
  rw [List.drop_append_of_le_length (by omega), List.take_append_of_le_length hfull]

section NextByte

variable (b : Byte)

theorem length_append_byte (msg : List Byte) : (msg ++ [b]).length = msg.length + 1 := by
  rw [List.length_append, List.length_singleton]

theorem dataBlocks_append_byte (h : msg.length % 64 ≠ 63) : dataBlocks (msg ++ [b]) = dataBlocks msg := by
  have hcount : (msg.length + 1) / 64 = msg.length / 64 := by omega
  rw [dataBlocks, length_append_byte, hcount, map_range_take_append msg [b] (by omega), dataBlocks]

theorem lastBytes_append_byte (h : msg.length % 64 ≠ 63) :
    lastBytes (msg ++ [b]) = lastBytes msg ++ [b] := by
  have hcount : (msg.length + 1) / 64 = msg.length / 64 := by omega
  rw [lastBytes, length_append_byte, hcount, List.drop_append_of_le_length (by omega), lastBytes]

/-- Byte 63 completes a block. -/
theorem dataBlocks_append_last (h : msg.length % 64 = 63) :
    dataBlocks (msg ++ [b]) = dataBlocks msg ++ [lastBytes msg ++ [b]] := by
  have hcount : (msg.length + 1) / 64 = msg.length / 64 + 1 := by omega
  have hfull : (lastBytes msg ++ [b]).length ≤ 64 := by
    rw [length_append_byte, lastBytes_length, h]
  rw [dataBlocks, length_append_byte, hcount, List.range_succ, List.map_append,
    map_range_take_append msg [b] (by omega), List.map_singleton, List.drop_append_of_le_length (by omega),
    ← lastBytes, List.take_of_length_le hfull, dataBlocks]

theorem lastBytes_append_last (h : msg.length % 64 = 63) : lastBytes (msg ++ [b]) = [] := by
  rw [lastBytes, length_append_byte]
  exact List.drop_of_length_le (by rw [length_append_byte]; omega)

theorem bitLength_append_byte (msg : List Byte) : bitLength (msg ++ [b]) = bitLength msg + 8#64 := by
  rw [bitLength, length_append_byte, Nat.mul_succ, BitVec.ofNat_add, bitLength]

end NextByte

/-! ### The bytes of M as a list -/

section Staged

variable {m : Memory} {bs : List Byte}

theorem Memory.read_cleared_zeros : Memory.cleared.read = blockByte (List.replicate 64 0#8) :=
  funext fun o => (List.getD_replicate 0#8 o.isLt).symm

/-- A byte written at the end of what is staged. -/
theorem Memory.read_write_end {c : Offset} {b : Byte} (hwf : m.wf = true) (hm : m.read = blockByte bs)
    (hc : c.toNat = bs.length) : (m.write c b).read = blockByte (bs ++ [b]) := by
  funext o
  rw [Memory.read_write hwf, hm, blockByte, blockByte]
  by_cases heq : c = o
  · subst heq
    rw [if_pos rfl, hc, List.getD_append_right _ _ _ _ (Nat.le_refl _), Nat.sub_self, List.getD_cons_zero]
  · have hne : o.toNat ≠ bs.length := fun h => heq (BitVec.eq_of_toNat_eq (hc.trans h.symm))
    rw [if_neg heq]
    rcases Nat.lt_or_ge o.toNat bs.length with hlt | hge
    · rw [List.getD_append _ _ _ _ hlt]
    · rw [List.getD_eq_default _ _ hge, List.getD_eq_default _ _ (by rw [length_append_byte]; omega)]

/-- Bytes written from the end of what is staged. -/
theorem Memory.read_writeBytes_end {l : List Byte} (hwf : m.wf = true) (hm : m.read = blockByte bs)
    (hlen : bs.length + l.length ≤ 64) : (m.writeBytes bs.length l).read = blockByte (bs ++ l) := by
  induction l generalizing m bs with
  | nil => rw [Memory.writeBytes, hm, List.append_nil]
  | cons b l ih =>
    rw [List.length_cons] at hlen
    have hoff : (BitVec.ofNat 6 bs.length).toNat = bs.length := by
      rw [BitVec.toNat_ofNat]
      omega
    have htail := ih (Memory.wf_write _ b hwf) (Memory.read_write_end hwf hm hoff)
      (by rw [length_append_byte]; omega)
    rw [length_append_byte, List.append_assoc] at htail
    exact htail

/-- FINISH's block is the block of the pad byte (R122). -/
theorem Memory.read_padded_padBlock {c : Offset} (hwf : m.wf = true)
    (hm : m.read = blockByte (lastBytes msg)) (hc : c.toNat = msg.length % 64) :
    (m.padded c).read = blockByte (padBlock msg) := by
  have hoff : BitVec.ofNat 6 (lastBytes msg).length = c := by
    rw [lastBytes_length, ← hc, BitVec.ofNat_toNat, BitVec.setWidth_eq]
  have hpad := Memory.read_writeBytes_end (l := 0x80#8 :: List.replicate (63 - msg.length % 64) 0#8) hwf hm
    (by rw [lastBytes_length, List.length_cons, List.length_replicate]; omega)
  rw [Memory.writeBytes, hoff, lastBytes_length, ← padBlock_eq] at hpad
  rwa [Memory.padded, hc]

/-- The block with the length field written over its last eight bytes. -/
theorem Memory.read_withLengthField_withLength (len : BitVec 64) (hwf : m.wf = true)
    (hm : m.read = blockByte bs) (hlen : bs.length = 64) :
    (m.withLengthField len).read = blockByte (withLength bs len) := by
  have htake : (bs.take 56).length = 56 := by
    rw [List.length_take, hlen]
    rfl
  funext o
  rw [Memory.read_withLengthField hwf, hm, blockByte, blockByte, withLength]
  by_cases ho : 56 ≤ o.toNat
  · rw [if_pos ho, List.getD_append_right _ _ _ _ (by omega), htake]
  · rw [if_neg ho, List.getD_append _ _ _ _ (by omega), List.getD_eq_getElem?_getD,
      List.getD_eq_getElem?_getD, List.getElem?_take_of_lt (by omega)]

end Staged

end Sys2Proof.Machine

/-!
PROOF. The machine against the contract (spec/44_driver.md R178): a core that has taken in the bytes of a
message so far holds their full blocks compressed in H and the rest staged in M. Each PUSH keeps this for one
byte more, and FINISH compresses the blocks of the padding.
-/

namespace Sys2Proof.Machine

variable {s : State} {msg : List Byte}

/-! ### The bytes -/

/-- The core in ACCEPT after the bytes `msg` of a message: full blocks in H, the rest in M. -/
structure State.HasTaken (s : State) (msg : List Byte) : Prop where
  phase : s.phase = .accept
  hash : s.H = foldBlocks H0 (dataBlocks msg)
  canonical : s.M.wf = true
  staged : s.M.read = blockByte (lastBytes msg)
  cursor : s.cur.toNat = msg.length % 64
  length : s.L = bitLength msg
  err : s.err = false

theorem State.HasTaken.cursor_eq_length (h : s.HasTaken msg) : s.cur.toNat = (lastBytes msg).length :=
  h.cursor.trans (lastBytes_length msg).symm

theorem State.HasTaken.lengthNext_eq_bitLength (h : s.HasTaken msg) (b : Byte) :
    lengthNext s.L = bitLength (msg ++ [b]) := by
  rw [lengthNext_eq, h.length, bitLength_append_byte]

theorem State.Fresh.hasTaken_nil (h : s.Fresh) : s.HasTaken [] where
  phase := h.phase
  hash := h.hash
  canonical := h.canonical
  staged := funext h.clear
  cursor := by rw [h.cursor]; rfl
  length := h.length
  err := h.err

/-- In ACCEPT, with no reset to come, the command at the head of the port is accepted. -/
theorem step_accept {i : Instr} {rest : List Command} (hp : s.phase = .accept) (hreset : s.resetIn = [])
    (hport : s.port = encode i :: rest) (hi : i.WellFormed) : step s = exec i s.accept := by
  have hlow : s.resetAsserted = false := State.resetAsserted_of_nil hreset
  refine step_command (nextMove_command hport hlow fun hbusy => ?_) (decode_encode hi)
  rw [hp] at hbusy
  cases hbusy

/-- One more block in the fold. -/
theorem foldBlocks_append (H : Vector Word 8) (bs : List Block) (b : Block) :
    foldBlocks H (bs ++ [b]) = compress (foldBlocks H bs) (expand (blockWords (blockByte b))) :=
  List.foldl_concat ..

section Push

variable {b : Byte} {rest : List Command}

/-- A PUSH that does not complete a block takes one step. -/
theorem steps_push_stage (h : s.HasTaken msg) (hreset : s.resetIn = [])
    (hport : s.port = encode (.push b) :: rest) (hlen : msg.length % 64 ≠ 63) :
    ∃ t, steps 1 s = .next t ∧ t.HasTaken (msg ++ [b]) ∧ t.port = rest ∧ t.resetIn = [] := by
  have hc : s.cur ≠ 63#6 := fun hc => hlen (by rw [← h.cursor, hc]; rfl)
  have hstep := (step_accept h.phase hreset hport rfl).trans (exec_push_stage (s := s.accept) h.phase hc)
  refine ⟨_, steps_succ hstep 0, ?_, by simp [hport], by simp [hreset]⟩
  exact {
    phase := h.phase
    hash := by
      rw [dataBlocks_append_byte b hlen]
      exact h.hash
    canonical := Memory.wf_write _ _ h.canonical
    staged := by
      rw [lastBytes_append_byte b hlen]
      exact Memory.read_write_end h.canonical h.staged h.cursor_eq_length
    cursor := by
      rw [length_append_byte, State.advanceCursor_cur, State.appendByte_cur, State.accept_cur,
        cursor_succ_toNat hc, h.cursor]
      omega
    length := h.lengthNext_eq_bitLength b
    err := h.err }

/-- A PUSH that completes a block is followed by the 65 core steps of that block. -/
theorem steps_push_load (h : s.HasTaken msg) (hreset : s.resetIn = [])
    (hport : s.port = encode (.push b) :: rest) (hwaits : ∀ w ∈ rest.head?, wordWaits w = true)
    (hlen : msg.length % 64 = 63) :
    ∃ t, steps (1 + 65) s = .next t ∧ t.HasTaken (msg ++ [b]) ∧ t.port = rest ∧ t.resetIn = [] := by
  have hcur : s.cur.toNat = 63 := h.cursor.trans hlen
  have hc : s.cur = 63#6 := BitVec.eq_of_toNat_eq hcur
  have hstep := (step_accept h.phase hreset hport rfl).trans (exec_push_load (s := s.accept) h.phase hc)
  have hstart := State.load_blockStart (s.accept.appendByte b) .data
  have htail : s.port.tail = rest := by rw [hport, List.tail_cons]
  have hread : (s.M.write s.cur b).read = blockByte (lastBytes msg ++ [b]) :=
    Memory.read_write_end h.canonical h.staged h.cursor_eq_length
  obtain ⟨p, a, c, hsteps⟩ := steps_of_coreSteps (by simp [hreset]) hstart.loaded
    (by simpa [htail] using hwaits) (fun _ => coreSteps_busy hstart) (coreSteps_data hstart rfl)
  refine ⟨_, (steps_add (steps_succ hstep 0)).trans hsteps, ?_, htail, rfl⟩
  exact {
    phase := rfl
    hash := by
      rw [dataBlocks_append_last b hlen, foldBlocks_append, ← h.hash, ← hread]
      rfl
    canonical := rfl
    staged := by
      rw [lastBytes_append_last b hlen]
      rfl
    cursor := by
      have hzero : 0 = (msg ++ [b]).length % 64 := by
        rw [length_append_byte]
        omega
      exact hzero
    length := h.lengthNext_eq_bitLength b
    err := h.err }

end Push

/-- The words of a message's bytes, without FINISH. -/
def pushes (msg : List Byte) : List Command := msg.map fun b => encode (.push b)

theorem wordWaits_encode {i : Instr} (hi : i.WellFormed) : wordWaits (encode i) = waitsForCore i :=
  wordWaits_of_command (decode_encode hi)

/-- Every byte takes one step, and every full block 65 more. -/
theorem steps_pushes (h : s.Fresh) (hreset : s.resetIn = []) {rest : List Command}
    (hport : s.port = pushes msg ++ rest) (hwaits : ∀ w ∈ rest.head?, wordWaits w = true) :
    ∃ t, steps (msg.length + 65 * (msg.length / 64)) s = .next t ∧ t.HasTaken msg ∧ t.port = rest ∧
      t.resetIn = [] := by
  induction msg using List.reverseRecOn generalizing rest with
  | nil => exact ⟨s, rfl, h.hasTaken_nil, hport, hreset⟩
  | append_singleton msg b ih =>
    rw [pushes, List.map_append, List.append_assoc] at hport
    obtain ⟨t, hsteps, htaken, hport', hreset'⟩ := ih hport fun w hw => by
      cases hw
      exact wordWaits_encode rfl
    rw [length_append_byte]
    by_cases hlen : msg.length % 64 = 63
    · have hcount : msg.length + 1 + 65 * ((msg.length + 1) / 64) =
          msg.length + 65 * (msg.length / 64) + (1 + 65) := by omega
      rw [hcount, steps_add hsteps]
      exact steps_push_load htaken hreset' hport' hwaits hlen
    · have hcount : msg.length + 1 + 65 * ((msg.length + 1) / 64) =
          msg.length + 65 * (msg.length / 64) + 1 := by omega
      rw [hcount, steps_add hsteps]
      exact steps_push_stage htaken hreset' hport' hlen

/-! ### FINISH -/

/-- The core in DONE with the message hashed and nothing left to accept. -/
structure State.HasHashed (s : State) (msg : List Byte) : Prop where
  phase : s.phase = .done
  port : s.port = []
  hash : s.H = foldBlocks H0 (pad msg)
  length : s.L = bitLength msg
  err : s.err = false

section Finish

variable (h : s.HasTaken msg) (hreset : s.resetIn = []) (hport : s.port = [encode .finish])
include h hreset hport

/-- The length fits into the block of the pad byte. -/
theorem steps_finish_final (hlen : msg.length % 64 ≤ 55) :
    ∃ t, steps (1 + 65) s = .next t ∧ t.HasHashed msg := by
  have hc : s.cur.toNat ≤ 55 := h.cursor.trans_le hlen
  have hstep := (step_accept h.phase hreset hport rfl).trans (exec_finish_final (s := s.accept) h.phase hc)
  have hstart := State.load_blockStart
    (s.accept.setM ((s.accept.M.padded s.accept.cur).withLengthField s.accept.L)) .final
  have htail : s.port.tail = [] := by rw [hport, List.tail_cons]
  have hread : ((s.M.padded s.cur).withLengthField s.L).read =
      blockByte (withLength (padBlock msg) (bitLength msg)) := by
    rw [h.length]
    exact Memory.read_withLengthField_withLength _ (Memory.wf_padded _ h.canonical)
      (Memory.read_padded_padBlock h.canonical h.staged h.cursor) (padBlock_length msg)
  obtain ⟨p, a, c, hsteps⟩ := steps_of_coreSteps (by simp [hreset]) hstart.loaded (by simp [htail])
    (fun _ => coreSteps_busy hstart) (coreSteps_final hstart rfl)
  refine ⟨_, (steps_add (steps_succ hstep 0)).trans hsteps, rfl, by simpa using htail, ?_,
    by simpa using h.length, by simpa using h.err⟩
  rw [pad_of_le msg hlen, foldBlocks_append, ← h.hash]
  simp [hread]

/-- The block of the pad byte, and the length-only block after it. -/
theorem steps_finish_pad1 (hlen : 56 ≤ msg.length % 64) :
    ∃ t, steps (1 + 130) s = .next t ∧ t.HasHashed msg := by
  have hc : 56 ≤ s.cur.toNat := hlen.trans_eq h.cursor.symm
  have hstep := (step_accept h.phase hreset hport rfl).trans (exec_finish_pad1 (s := s.accept) h.phase hc)
  have hstart := State.load_blockStart (s.accept.setM (s.accept.M.padded s.accept.cur)) .pad1
  have htail : s.port.tail = [] := by rw [hport, List.tail_cons]
  have hread : (s.M.padded s.cur).read = blockByte (padBlock msg) :=
    Memory.read_padded_padBlock h.canonical h.staged h.cursor
  have hread' : (Memory.cleared.withLengthField s.L).read =
      blockByte (withLength (List.replicate 64 0#8) (bitLength msg)) := by
    rw [h.length]
    exact Memory.read_withLengthField_withLength _ Memory.wf_cleared Memory.read_cleared_zeros
      List.length_replicate
  obtain ⟨p, a, c, hsteps⟩ := steps_of_coreSteps (by simp [hreset]) hstart.loaded (by simp [htail])
    (fun _ => coreSteps_pad1_busy hstart rfl) (coreSteps_pad1_final hstart rfl)
  refine ⟨_, (steps_add (steps_succ hstep 0)).trans hsteps, rfl, by simpa using htail, ?_,
    by simpa using h.length, by simpa using h.err⟩
  rw [pad_of_ge msg hlen, List.append_cons, foldBlocks_append, foldBlocks_append, ← h.hash]
  simp [hread, hread']

end Finish

/-- Settles O40: the bytes are taken in, and FINISH adds one block to the full ones or two. -/
theorem runComputesDigest : Obligations.RunComputesDigest := by
  intro s msg hfresh hreset hport
  obtain ⟨t, hsteps, htaken, hport', hreset'⟩ := steps_pushes hfresh hreset hport fun w hw => by
    cases hw
    exact wordWaits_encode rfl
  have hfinish : ∃ u, steps (msg.length + 1 + 65 * (pad msg).length) s = .next u ∧ u.HasHashed msg := by
    rcases Nat.lt_or_ge 55 (msg.length % 64) with hlen | hlen
    · have hcount : msg.length + 1 + 65 * (msg.length / 64 + 2) =
          msg.length + 65 * (msg.length / 64) + (1 + 130) := by omega
      rw [pad_length_of_ge msg hlen, hcount, steps_add hsteps]
      exact steps_finish_pad1 htaken hreset' hport' hlen
    · have hcount : msg.length + 1 + 65 * (msg.length / 64 + 1) =
          msg.length + 65 * (msg.length / 64) + (1 + 65) := by omega
      rw [pad_length_of_le msg hlen, hcount, steps_add hsteps]
      exact steps_finish_final htaken hreset' hport' hlen
  obtain ⟨u, hu, hhashed⟩ := hfinish
  refine ⟨u, hu, hhashed.phase, hhashed.port, ?_, hhashed.length, hhashed.err⟩
  rw [hhashed.hash, digest]

end Sys2Proof.Machine
